-- ==== Sys2Proof/Word.lean ====
section
/-! DEFINITION. The word types of CORE (spec/00_scope.md R4, R5): every value is unsigned, bit 0 the least significant. -/

namespace Sys2Proof

/-- A general register, a timer, a memory byte, an immediate `kk`: 8 bits (R4 `XLEN`, R61). -/
abbrev Byte := BitVec 8

/-- An instruction word, the index register, the cursor, a stack slot: 16 bits (R4 `ILEN`, `PCLEN`, R14, R60). -/
abbrev Word := BitVec 16

/-- A 4-bit field that names one of `V[0]` to `V[15]` (R10, R61: a 4-bit field names exactly 16 registers). -/
abbrev RegIx := BitVec 4

/-- A 4-bit field that names no register: a sprite height, an ignored nibble, a discriminator (R61, R66). -/
abbrev Nibble := BitVec 4

/-- The 12-bit address field `nnn` (R61). -/
abbrev Addr := BitVec 12

end Sys2Proof
end

