-- ==== Sys2Proof/Syntax.lean ====
section
/-! DEFINITION. The instruction set: one constructor per row of spec/opcode_table.json (spec/30_encoding.md R64, rows 1 to 35). -/

namespace Sys2Proof

/-- The 34 instructions and the fallback UNKNOWN (R63, R64, R67), in the order of the opcode map.
`ign` holds the bits the decoder ignores (R66), kept so that encoding a decoded word gives the word back (log 11). -/
inductive Instr where
  /-- `00E0` `CLS` (R150). -/
  | cls
  /-- `00EE` `RET` (R100). -/
  | ret
  /-- `1nnn` `JP nnn` (R101). -/
  | jp (nnn : Addr)
  /-- `2nnn` `CALL nnn` (R102). -/
  | call (nnn : Addr)
  /-- `3xkk` `SE Vx, kk` (R103). -/
  | seImm (x : RegIx) (kk : Byte)
  /-- `4xkk` `SNE Vx, kk` (R104). -/
  | sneImm (x : RegIx) (kk : Byte)
  /-- `5xy_` `SE Vx, Vy` (R105). -/
  | seReg (x y : RegIx) (ign : Nibble)
  /-- `6xkk` `LD Vx, kk` (R121). -/
  | ldImm (x : RegIx) (kk : Byte)
  /-- `7xkk` `ADD Vx, kk` (R122). -/
  | addImm (x : RegIx) (kk : Byte)
  /-- `8xy0` `LD Vx, Vy` (R123). -/
  | ldReg (x y : RegIx)
  /-- `8xy1` `OR Vx, Vy` (R124). -/
  | orReg (x y : RegIx)
  /-- `8xy2` `AND Vx, Vy` (R125). -/
  | andReg (x y : RegIx)
  /-- `8xy3` `XOR Vx, Vy` (R126). -/
  | xorReg (x y : RegIx)
  /-- `8xy4` `ADD Vx, Vy` (R127). -/
  | addReg (x y : RegIx)
  /-- `8xy5` `SUB Vx, Vy` (R128). -/
  | subReg (x y : RegIx)
  /-- `8x_6` `SHR Vx` (R129). -/
  | shr (x : RegIx) (ign : Nibble)
  /-- `8xy7` `SUBN Vx, Vy` (R130). -/
  | subnReg (x y : RegIx)
  /-- `8x_E` `SHL Vx` (R131). -/
  | shl (x : RegIx) (ign : Nibble)
  /-- `9xy_` `SNE Vx, Vy` (R106). -/
  | sneReg (x y : RegIx) (ign : Nibble)
  /-- `Annn` `LD I, nnn` (R140). -/
  | ldIndex (nnn : Addr)
  /-- `Bnnn` `JP V0, nnn` (R107). -/
  | jpV0 (nnn : Addr)
  /-- `Cxkk` `RND Vx, kk` (R132). -/
  | rnd (x : RegIx) (kk : Byte)
  /-- `Dxyn` `DRW Vx, Vy, n` (R151). -/
  | drw (x y : RegIx) (n : Nibble)
  /-- `Ex9E` `SKP Vx` (R160). -/
  | skp (x : RegIx)
  /-- `ExA1` `SKNP Vx` (R161). -/
  | sknp (x : RegIx)
  /-- `Fx07` `LD Vx, DT` (R162). -/
  | ldRegDt (x : RegIx)
  /-- `Fx0A` `LD Vx, K` (R163). -/
  | ldRegKey (x : RegIx)
  /-- `Fx15` `LD DT, Vx` (R164). -/
  | ldDtReg (x : RegIx)
  /-- `Fx18` `LD ST, Vx` (R165). -/
  | ldStReg (x : RegIx)
  /-- `Fx1E` `ADD I, Vx` (R141). -/
  | addIndex (x : RegIx)
  /-- `Fx29` `LD F, Vx` (R142). -/
  | ldFont (x : RegIx)
  /-- `Fx33` `LD B, Vx` (R143). -/
  | ldBcd (x : RegIx)
  /-- `Fx55` `LD [I], Vx` (R144). -/
  | storeRegs (x : RegIx)
  /-- `Fx65` `LD Vx, [I]` (R145). -/
  | loadRegs (x : RegIx)
  /-- Any word of the UNKNOWN space (R65, R90). -/
  | unknown (op : Word)
  deriving DecidableEq, Repr

end Sys2Proof
end

