-- ==== Sys2Proof/WellFormed.lean ====
section
/-! DEFINITION. Which terms of `Instr` are instructions of the machine (spec/30_encoding.md R61, R65). -/

namespace Sys2Proof

/-- The UNKNOWN space, word by word as R65 lists it (not by way of the decoder). -/
def unknownSpace (op : Word) : Bool :=
  let high := op.extractLsb' 12 4
  let low := op.extractLsb' 0 4
  let lowByte := op.extractLsb' 0 8
  (high == 0x0 && !(op == 0x00E0 || op == 0x00EE))
    || (high == 0x8 && [0x8, 0x9, 0xA, 0xB, 0xC, 0xD, 0xF].contains low)
    || (high == 0xE && !(lowByte == 0x9E || lowByte == 0xA1))
    || (high == 0xF && !([0x07, 0x0A, 0x15, 0x18, 0x1E, 0x29, 0x33, 0x55, 0x65].contains lowByte))

/-- An `unknown` term must hold a word of the UNKNOWN space (R65).
Every other term is well formed as it stands: the types of its fields hold exactly the values R61 and R62 give them. -/
def Instr.wellFormed : Instr → Bool
  | .unknown op => unknownSpace op
  | .cls | .ret | .jp _ | .call _ | .seImm _ _ | .sneImm _ _ | .seReg _ _ _ | .ldImm _ _ | .addImm _ _ | .ldReg _ _
  | .orReg _ _ | .andReg _ _ | .xorReg _ _ | .addReg _ _ | .subReg _ _ | .shr _ _ | .subnReg _ _ | .shl _ _
  | .sneReg _ _ _ | .ldIndex _ | .jpV0 _ | .rnd _ _ | .drw _ _ _ | .skp _ | .sknp _ | .ldRegDt _ | .ldRegKey _
  | .ldDtReg _ | .ldStReg _ | .addIndex _ | .ldFont _ | .ldBcd _ | .storeRegs _ | .loadRegs _ => true

end Sys2Proof
end

