-- ==== Sys2Proof/Decode.lean ====
section
/-! DEFINITION. The decoder (spec/30_encoding.md R61 to R66), the encoder (R69) and the opcode map (R64). -/

namespace Sys2Proof

/-- `h`, bits 15:12 (R61). -/
def fieldH (op : Word) : Nibble := op.extractLsb' 12 4

/-- `x`, bits 11:8 (R61). -/
def fieldX (op : Word) : RegIx := op.extractLsb' 8 4

/-- `y`, bits 7:4 (R61). -/
def fieldY (op : Word) : RegIx := op.extractLsb' 4 4

/-- `n`, bits 3:0 (R61). -/
def fieldN (op : Word) : Nibble := op.extractLsb' 0 4

/-- `kk`, bits 7:0 (R61). -/
def fieldKK (op : Word) : Byte := op.extractLsb' 0 8

/-- `nnn`, bits 11:0 (R61). -/
def fieldNNN (op : Word) : Addr := op.extractLsb' 0 12

/-- Family 0, selected by the whole word (R63). -/
def decodeFamily0 (op : Word) : Instr :=
  if op = 0x00E0#16 then .cls else if op = 0x00EE#16 then .ret else .unknown op

/-- Family 8, selected by the low nibble (R63); the shifts ignore `y` (R66). -/
def decodeFamily8 (op : Word) : Instr :=
  let x := fieldX op
  let y := fieldY op
  let n := fieldN op
  if n = 0x0#4 then .ldReg x y
  else if n = 0x1#4 then .orReg x y
  else if n = 0x2#4 then .andReg x y
  else if n = 0x3#4 then .xorReg x y
  else if n = 0x4#4 then .addReg x y
  else if n = 0x5#4 then .subReg x y
  else if n = 0x6#4 then .shr x y
  else if n = 0x7#4 then .subnReg x y
  else if n = 0xE#4 then .shl x y
  else .unknown op

/-- Family E, selected by the low byte (R63). -/
def decodeFamilyE (op : Word) : Instr :=
  if fieldKK op = 0x9E#8 then .skp (fieldX op)
  else if fieldKK op = 0xA1#8 then .sknp (fieldX op)
  else .unknown op

/-- Family F, selected by the low byte (R63). -/
def decodeFamilyF (op : Word) : Instr :=
  let x := fieldX op
  let kk := fieldKK op
  if kk = 0x07#8 then .ldRegDt x
  else if kk = 0x0A#8 then .ldRegKey x
  else if kk = 0x15#8 then .ldDtReg x
  else if kk = 0x18#8 then .ldStReg x
  else if kk = 0x1E#8 then .addIndex x
  else if kk = 0x29#8 then .ldFont x
  else if kk = 0x33#8 then .ldBcd x
  else if kk = 0x55#8 then .storeRegs x
  else if kk = 0x65#8 then .loadRegs x
  else .unknown op

/-- The decoder: total, a pure function of the word (R63, R68). Dispatch is on the high nibble; the low nibble of
`5xy_` and `9xy_` is ignored (R66). The patterns other than `6xkk` and `7xkk` are the spec's general knowledge
(UNVERIFIED, unsafe, log 14). -/
def decode (op : Word) : Instr :=
  let h := fieldH op
  if h = 0x0#4 then decodeFamily0 op
  else if h = 0x1#4 then .jp (fieldNNN op)
  else if h = 0x2#4 then .call (fieldNNN op)
  else if h = 0x3#4 then .seImm (fieldX op) (fieldKK op)
  else if h = 0x4#4 then .sneImm (fieldX op) (fieldKK op)
  else if h = 0x5#4 then .seReg (fieldX op) (fieldY op) (fieldN op)
  else if h = 0x6#4 then .ldImm (fieldX op) (fieldKK op)
  else if h = 0x7#4 then .addImm (fieldX op) (fieldKK op)
  else if h = 0x8#4 then decodeFamily8 op
  else if h = 0x9#4 then .sneReg (fieldX op) (fieldY op) (fieldN op)
  else if h = 0xA#4 then .ldIndex (fieldNNN op)
  else if h = 0xB#4 then .jpV0 (fieldNNN op)
  else if h = 0xC#4 then .rnd (fieldX op) (fieldKK op)
  else if h = 0xD#4 then .drw (fieldX op) (fieldY op) (fieldN op)
  else if h = 0xE#4 then decodeFamilyE op
  else decodeFamilyF op

/-- The word of two fetched bytes: the byte at the lower address is bits 15:8 (R43). -/
def wordOfBytes (first second : Byte) : Word := first ++ second

/-- The two bytes of a word in the order memory holds them (R43). -/
def bytesOfWord (op : Word) : List Byte := [op.extractLsb' 8 8, op.extractLsb' 0 8]

/-- Why a list of bytes holds no instruction: fewer than two bytes are left (R60: every instruction is two bytes). -/
inductive DecodeError where
  | truncated
  deriving DecidableEq, Repr

/-- The instruction at the front of a list of bytes, with the bytes after it; total, and it rejects a list of fewer than
two bytes by name (R60, R63). -/
def decodeBytes : List Byte → Except DecodeError (Instr × List Byte)
  | first :: second :: rest => .ok (decode (wordOfBytes first second), rest)
  | [_] => .error .truncated
  | [] => .error .truncated

/-- A word from its four nibbles (R69). -/
def pack (h : Nibble) (x y : RegIx) (n : Nibble) : Word := h ++ x ++ y ++ n

/-- A word of the `hxkk` shape (R61, R69). -/
def packXKK (h : Nibble) (x : RegIx) (kk : Byte) : Word := h ++ x ++ kk

/-- A word of the `hnnn` shape (R61, R69). -/
def packNNN (h : Nibble) (nnn : Addr) : Word := h ++ nnn

/-- The encoder, from the patterns of the opcode map (R64, R69): fixed nibbles as the row fixes them, operands in their
fields, ignored fields set to the kept bits. -/
def encode : Instr → Word
  | .cls => 0x00E0
  | .ret => 0x00EE
  | .jp nnn => packNNN 0x1 nnn
  | .call nnn => packNNN 0x2 nnn
  | .seImm x kk => packXKK 0x3 x kk
  | .sneImm x kk => packXKK 0x4 x kk
  | .seReg x y ign => pack 0x5 x y ign
  | .ldImm x kk => packXKK 0x6 x kk
  | .addImm x kk => packXKK 0x7 x kk
  | .ldReg x y => pack 0x8 x y 0x0
  | .orReg x y => pack 0x8 x y 0x1
  | .andReg x y => pack 0x8 x y 0x2
  | .xorReg x y => pack 0x8 x y 0x3
  | .addReg x y => pack 0x8 x y 0x4
  | .subReg x y => pack 0x8 x y 0x5
  | .shr x ign => pack 0x8 x ign 0x6
  | .subnReg x y => pack 0x8 x y 0x7
  | .shl x ign => pack 0x8 x ign 0xE
  | .sneReg x y ign => pack 0x9 x y ign
  | .ldIndex nnn => packNNN 0xA nnn
  | .jpV0 nnn => packNNN 0xB nnn
  | .rnd x kk => packXKK 0xC x kk
  | .drw x y n => pack 0xD x y n
  | .skp x => packXKK 0xE x 0x9E
  | .sknp x => packXKK 0xE x 0xA1
  | .ldRegDt x => packXKK 0xF x 0x07
  | .ldRegKey x => packXKK 0xF x 0x0A
  | .ldDtReg x => packXKK 0xF x 0x15
  | .ldStReg x => packXKK 0xF x 0x18
  | .addIndex x => packXKK 0xF x 0x1E
  | .ldFont x => packXKK 0xF x 0x29
  | .ldBcd x => packXKK 0xF x 0x33
  | .storeRegs x => packXKK 0xF x 0x55
  | .loadRegs x => packXKK 0xF x 0x65
  | .unknown op => op

/-- The bytes of an instruction as memory holds them (R43, R69). -/
def encodeBytes (i : Instr) : List Byte := bytesOfWord (encode i)

/-- The `match` and `mask` columns of the opcode map (R64), by instruction; UNKNOWN is the fallback row, mask 0. -/
def opcodeRow : Instr → Word × Word
  | .cls => (0x00E0, 0xFFFF)
  | .ret => (0x00EE, 0xFFFF)
  | .jp _ => (0x1000, 0xF000)
  | .call _ => (0x2000, 0xF000)
  | .seImm _ _ => (0x3000, 0xF000)
  | .sneImm _ _ => (0x4000, 0xF000)
  | .seReg _ _ _ => (0x5000, 0xF000)
  | .ldImm _ _ => (0x6000, 0xF000)
  | .addImm _ _ => (0x7000, 0xF000)
  | .ldReg _ _ => (0x8000, 0xF00F)
  | .orReg _ _ => (0x8001, 0xF00F)
  | .andReg _ _ => (0x8002, 0xF00F)
  | .xorReg _ _ => (0x8003, 0xF00F)
  | .addReg _ _ => (0x8004, 0xF00F)
  | .subReg _ _ => (0x8005, 0xF00F)
  | .shr _ _ => (0x8006, 0xF00F)
  | .subnReg _ _ => (0x8007, 0xF00F)
  | .shl _ _ => (0x800E, 0xF00F)
  | .sneReg _ _ _ => (0x9000, 0xF000)
  | .ldIndex _ => (0xA000, 0xF000)
  | .jpV0 _ => (0xB000, 0xF000)
  | .rnd _ _ => (0xC000, 0xF000)
  | .drw _ _ _ => (0xD000, 0xF000)
  | .skp _ => (0xE09E, 0xF0FF)
  | .sknp _ => (0xE0A1, 0xF0FF)
  | .ldRegDt _ => (0xF007, 0xF0FF)
  | .ldRegKey _ => (0xF00A, 0xF0FF)
  | .ldDtReg _ => (0xF015, 0xF0FF)
  | .ldStReg _ => (0xF018, 0xF0FF)
  | .addIndex _ => (0xF01E, 0xF0FF)
  | .ldFont _ => (0xF029, 0xF0FF)
  | .ldBcd _ => (0xF033, 0xF0FF)
  | .storeRegs _ => (0xF055, 0xF0FF)
  | .loadRegs _ => (0xF065, 0xF0FF)
  | .unknown _ => (0x0000, 0x0000)

/-- The instruction of the word `w` of an opcode-table row that gives `nbits` bits, bits above them zero; laid out as memory
holds it (R43) and read by the byte decoder. -/
def decodeTableWord (nbits w : Nat) : Option Instr :=
  match decodeBytes (bytesOfWord (BitVec.ofNat 16 (w % 2 ^ nbits))) with
  | .ok (i, _) => some i
  | .error _ => none

end Sys2Proof
end

