-- ==== Sys2Proof/Config.lean ====
section
/-! DEFINITION. What is fixed for the machine (spec/00_scope.md R4), and the free values: the host's inputs that nothing constrains. -/

namespace Sys2Proof.Config

/-- `MEM_SIZE`: addresses 0 to 4095 exist (R4, R40). -/
abbrev memSize : Nat := 4096

/-- `PROG_BASE`: where the program image is loaded and where the cursor starts (R4, R41). -/
abbrev progBase : Nat := 0x200

/-- `FONT_LEN`: the font region is addresses 0 to 79 (R4, R41). -/
abbrev fontLen : Nat := 80

/-- `FB_W` (R4). -/
abbrev fbWidth : Nat := 64

/-- `FB_H` (R4). -/
abbrev fbHeight : Nat := 32

/-- `STACK_CAP` (R4). -/
abbrev stackCap : Nat := 16

/-- `IDX_FLAG_THRESHOLD` (R4, R141). -/
abbrev idxFlagThreshold : Nat := 0x0F00

/-- The key snapshot `keys_in` of the step numbered `k`, where the host's input is not given in the state.
FREE VALUE (log 1, DESIGN CHOICE, safe): R80 and R203 put no constraint on it, and it has no body. -/
opaque keysIn (k : Nat) : BitVec 16

/-- The random byte `rnd_in` of the step numbered `k`, where the host's input is not given in the state.
FREE VALUE (log 1, DESIGN CHOICE, safe): R132 puts no law on it, and it has no body. -/
opaque rndIn (k : Nat) : Byte

end Sys2Proof.Config
end

