-- ==== Sys2Proof/Machine/State.lean ====
section
/-! DEFINITION. The machine's state as plain data (spec/10_state.md), the faults (spec/60_exceptions.md R171), the state after reset (R29, R190). -/

namespace Sys2Proof.Machine

/-- The faults of R171, complete (R176). Each is terminal and nothing of the faulting step is committed (R170), so each is
SAFE: where the reference software would go on unchecked, this machine stops. -/
inductive Fault where
  /-- Raised by `CALL` when `SP = 16` at entry (R172). Safe. -/
  | stackOverflow
  /-- Raised by `RET` when `SP = 0` at entry (R173). Safe. -/
  | stackUnderflow
  /-- Raised by fetch, `DRW`, `LD B`, `LD [I]`, `LD Vx, [I]`, `ADD I, Vx`, `JP V0` and `RET` for an address, an index sum or a
  jump target `v` of 4096 or more (R174). Safe. -/
  | outOfRange (v : Nat)
  /-- Raised by `SKP` and `SKNP` when the key index `k = V[x]` is above 15 (R175). Safe. -/
  | keyIndexOutOfRange (k : Byte)
  deriving DecidableEq, Repr

/-- The machine itself refuses nothing: decoding is total and every variant has a rule (R203). -/
inductive Refusal where
  /-- Raised by an arm of `exec` for an instruction without a meaning; no arm raises it in this model. Safe. -/
  | notModelled (mnemonic : String)
  deriving DecidableEq, Repr

/-- Memory: the bytes that differ from what an unlisted address reads as, sorted by address (log 4). -/
abbrev Memory := List Host.Cell

/-- The framebuffer: 32 rows of 64 one-bit pixels; bit `col` of entry `row` is `FB[col, row]` (R20, R152; log 13). -/
abbrev Frame := Vector (BitVec 64) 32

/-- What the host gives with one step (R80): the key snapshot `keys_in` and the random byte `rnd_in`. -/
structure Input where
  keys : BitVec 16
  rnd : Byte
  deriving DecidableEq, Repr

/-- Everything the spec gives the machine (10_state.md section 1), and after it the model's own three fields. -/
structure State where
  /-- `V[0..15]` (R10); `V[15]` is `VF` (R11). -/
  v : Vector Byte 16
  /-- `I`, the index register (R12). -/
  idx : Word
  /-- `pc`, the instruction cursor (R13). -/
  pc : Word
  /-- `STACK[0..15]`, the return addresses (R14). -/
  stack : Vector Word 16
  /-- `SP`, the number of return addresses held, 0 to 16 (R15; log 9). -/
  sp : Fin 17
  /-- `DT`, the delay timer (R16). -/
  dt : Byte
  /-- `ST`, the sound timer (R17). -/
  st : Byte
  /-- `KEY[0..15]`: bit `i` is key `i` (R18). -/
  key : BitVec 16
  /-- `WAIT`: true is `WAITING_FOR_KEY` (R19). -/
  wait : Bool
  /-- `WREG`, the target of the pending key read (R19). -/
  wreg : RegIx
  /-- `FB` (R20). -/
  fb : Frame
  /-- `CHG`, which is the output `changed` of the step just taken (R21, R80; log 7). -/
  chg : Bool
  /-- `MEM` (R23, R40). -/
  mem : Memory
  /-- The output `unknown_out` of the step just taken (R80, R90, R177; log 7). -/
  unknownOut : Option Word
  /-- The model's own: the port `rnd_in` as sampled at the entry of this step (R80; log 2). -/
  rndIn : Byte
  /-- The model's own: the host's inputs presented and not yet sampled, oldest first (R80; log 1). -/
  inputs : List Input
  /-- The model's own: the number of the next step, which picks its free values (log 1). -/
  tick : Nat
  deriving DecidableEq, Repr

/-- What an instruction, and a step, answers. -/
abbrev Result := Host.Outcome State Fault Refusal

/-- The machine right after initialisation with the default font and the empty image (R29, R190).
`I`, `FB`, `CHG` and `WREG` are zero by the spec's decision D22 (log 5); memory lists nothing, so it reads as R41 says
(log 4); the model's own fields are DESIGN CHOICE (log 2); no program is placed (log 6). -/
def State.reset : State where
  v := Vector.replicate 16 0
  idx := 0
  pc := 0x200
  stack := Vector.replicate 16 0
  sp := 0
  dt := 0
  st := 0
  key := 0
  wait := false
  wreg := 0
  fb := Vector.replicate 32 0
  chg := false
  mem := []
  unknownOut := none
  rndIn := 0
  inputs := []
  tick := 0

end Sys2Proof.Machine
end

