-- ==== Sys2Proof/Machine/Ops.lean ====
section
/-! DEFINITION. The named operations over registers, memory, stack, cursor, timers and framebuffer (spec/00_scope.md R6), and `raise`, the one way a step faults (spec/60_exceptions.md R170). -/

namespace Sys2Proof.Machine

/-! ### Faults -/

/-- `raise <Fault>(info)`: the step ends with the fault and commits nothing (R6, R170). This is the machine's whole exception
entry: no register is saved, no mode changes, no handler runs (R180), and there is no return from it (R181; log 8). -/
def raise (f : Fault) : Result := .fault f

/-- The code `fault_out` shows for a fault (R171). -/
def Fault.code : Fault → Nat
  | .stackOverflow => 1
  | .stackUnderflow => 2
  | .outOfRange _ => 3
  | .keyIndexOutOfRange _ => 4

/-- The 16-bit info word `fault_out` shows for a fault (R171). -/
def Fault.info : Fault → Word
  | .stackOverflow => 0
  | .stackUnderflow => 0
  | .outOfRange v => BitVec.ofNat 16 v
  | .keyIndexOutOfRange k => k.setWidth 16

/-! ### General registers -/

/-- `V[r]` (R6, R10). -/
def State.reg (s : State) (r : RegIx) : Byte := s.v[r.toNat]'r.isLt

/-- `V[r] <- b` (R6, R10). -/
def State.setReg (s : State) (r : RegIx) (b : Byte) : State := { s with v := s.v.set r.toNat b r.isLt }

/-! ### Memory -/

/-- The default font (R42, D19): 16 glyphs of 5 bytes, one digit a line.
PRESUMED, unsafe for a claim about what a glyph looks like (log 3). -/
def defaultFont : Vector Byte 80 := #v[
  0xF0, 0x90, 0x90, 0x90, 0xF0,
  0x20, 0x60, 0x20, 0x20, 0x70,
  0xF0, 0x10, 0xF0, 0x80, 0xF0,
  0xF0, 0x10, 0xF0, 0x10, 0xF0,
  0x90, 0x90, 0xF0, 0x10, 0x10,
  0xF0, 0x80, 0xF0, 0x10, 0xF0,
  0xF0, 0x80, 0xF0, 0x90, 0xF0,
  0xF0, 0x10, 0x20, 0x40, 0x40,
  0xF0, 0x90, 0xF0, 0x90, 0xF0,
  0xF0, 0x90, 0xF0, 0x10, 0xF0,
  0xF0, 0x90, 0xF0, 0x90, 0x90,
  0xE0, 0x90, 0xE0, 0x90, 0xE0,
  0xF0, 0x80, 0x80, 0x80, 0xF0,
  0xE0, 0x90, 0x90, 0x90, 0xE0,
  0xF0, 0x80, 0xF0, 0x80, 0xF0,
  0xF0, 0x80, 0xF0, 0x80, 0x80]

/-- What an address that memory does not list reads as: the reset contents with the default font and no image (R41; log 4). -/
def Memory.unlisted (a : Nat) : Byte := if h : a < 80 then defaultFont[a] else 0

/-- `MEM[a]`: the listed byte, or what an unlisted address reads as (R40, R45). -/
def Memory.read : Memory → Nat → Byte
  | [], a => Memory.unlisted a
  | (k, b) :: m, a => if k = a then b else Memory.read m a

/-- A cell put before the first cell of a higher address. -/
def Memory.insertCell : Memory → Nat → Byte → Memory
  | [], a, b => [(a, b)]
  | (k, c) :: m, a, b => if a < k then (a, b) :: (k, c) :: m else (k, c) :: Memory.insertCell m a b

/-- `MEM[a] <- b`, in canonical form: no cell stays for a byte that an unlisted address would read as (R45; log 4). -/
def Memory.write (m : Memory) (a : Nat) (b : Byte) : Memory :=
  let others := m.filter (fun c => c.1 != a)
  if b = Memory.unlisted a then others else Memory.insertCell others a b

/-- Addresses strictly rise, and `low` is at most the first (log 4). -/
def Memory.risesFrom : Nat → Memory → Bool
  | _, [] => true
  | low, (k, _) :: m => low ≤ k && Memory.risesFrom (k + 1) m

/-- The canonical form: addresses strictly rising and below 4096, no cell equal to what its address reads as unlisted. -/
def Memory.wf (m : Memory) : Bool :=
  Memory.risesFrom 0 m && m.all (fun c => c.1 < Config.memSize && c.2 != Memory.unlisted c.1)

/-- `MEM[a]` of a state. -/
def State.byteAt (s : State) (a : Nat) : Byte := s.mem.read a

/-- The range check made for all of an instruction's data accesses before its first write: `count` bytes from `base` upward;
the fault reports 4096 (R46, R174 (b)). -/
def inRange (base count : Nat) (k : Result) : Result :=
  if base + count > Config.memSize then raise (.outOfRange 4096) else k

/-- `MemRead(pc, 2)`: the big-endian word at the cursor, any parity, with fetch's range check (R43, R44, R84, R174 (a)). -/
def State.fetch (s : State) : Except Fault Word :=
  if s.pc.toNat ≥ Config.memSize then .error (.outOfRange s.pc.toNat)
  else if s.pc.toNat + 1 ≥ Config.memSize then .error (.outOfRange (s.pc.toNat + 1))
  else .ok (wordOfBytes (s.byteAt s.pc.toNat) (s.byteAt (s.pc.toNat + 1)))

/-- `V[0]` to `V[count - 1]` stored at `base` upward, `V[0]` lowest (R144). -/
def State.storeBlock (s : State) (base : Nat) : Nat → Memory
  | 0 => s.mem
  | k + 1 => (State.storeBlock s base k).write (base + k) (s.reg (BitVec.ofNat 4 k))

/-- `V[0]` to `V[count - 1]` loaded from `base` upward, all bytes read from the memory of `s` (R145). -/
def State.loadBlock (s : State) (base : Nat) : Nat → State
  | 0 => s
  | k + 1 => (State.loadBlock s base k).setReg (BitVec.ofNat 4 k) (s.byteAt (base + k))

/-! ### Call stack -/

/-- The write half of `CALL`: `STACK[SP] <- w`, then `SP <- SP + 1` (R15, R102), for `SP` below 16. -/
def State.push (s : State) (w : Word) (h : s.sp.val < 16) : State :=
  { s with stack := s.stack.set s.sp.val w h, sp := ⟨s.sp.val + 1, by omega⟩ }

/-- The address `RET` pops, `STACK[SP - 1]` (R15, R100); read only for `SP` above 0. -/
def State.top (s : State) : Word := s.stack[s.sp.val - 1]'(by have := s.sp.isLt; omega)

/-- The write half of `RET`: `SP <- SP - 1`; the slot keeps its value (R14, R100). -/
def State.pop (s : State) : State :=
  { s with sp := ⟨s.sp.val - 1, by have := s.sp.isLt; omega⟩ }

/-! ### Cursor -/

/-- `advance()` (R86). -/
def State.advance (s : State) : State := { s with pc := s.pc + 2 }

/-- `skip()` (R87). -/
def State.skip (s : State) : State := { s with pc := s.pc + 4 }

/-- `skip_if(cond)` (R88). -/
def State.skipIf (s : State) (cond : Bool) : State := if cond then s.skip else s.advance

/-- `jump(addr)`: bounds-checked, no alignment check (R89). -/
def State.jump (s : State) (addr : Nat) : Result :=
  if addr ≥ Config.memSize then raise (.outOfRange addr) else .next { s with pc := BitVec.ofNat 16 addr }

/-! ### Index register, timers, wait latch, outputs -/

/-- `I <- w` (R12). -/
def State.setIdx (s : State) (w : Word) : State := { s with idx := w }

/-- `DT <- b` (R16). -/
def State.setDt (s : State) (b : Byte) : State := { s with dt := b }

/-- `ST <- b` (R17). -/
def State.setSt (s : State) (b : Byte) : State := { s with st := b }

/-- `MEM <- m`. -/
def State.setMem (s : State) (m : Memory) : State := { s with mem := m }

/-- `WAIT <- true`, `WREG <- r` (R19, R163). -/
def State.beginWait (s : State) (r : RegIx) : State := { s with wait := true, wreg := r }

/-- `WAIT <- false`; `WREG` is left unchanged (R19, R82). -/
def State.endWait (s : State) : State := { s with wait := false }

/-- `emit Unknown(op)` (R6, R90). -/
def State.emitUnknown (s : State) (op : Word) : State := { s with unknownOut := some op }

/-- A countdown step that saturates at 0 (R16, R83). -/
def countDown (b : Byte) : Byte := if b = 0 then 0 else b - 1

/-- Both timers, decremented independently (R83). -/
def State.tickTimers (s : State) : State := { s with dt := countDown s.dt, st := countDown s.st }

/-! ### Framebuffer -/

/-- `FB[col, row]` (R20, R152). -/
def Frame.pixel (fb : Frame) (col : Fin 64) (row : Fin 32) : Bool := fb[row.val].getLsbD col.val

/-- `FB[col, row] <- FB[col, row] ^ 1` (R151). -/
def Frame.flipPixel (fb : Frame) (col : Fin 64) (row : Fin 32) : Frame :=
  fb.set row.val (fb[row.val] ^^^ (1#64 <<< col.val))

/-- Every pixel 0 (R150). -/
def Frame.blank : Frame := Vector.replicate 32 0

/-- `FB <- f` with `CHG <- true`: what a framebuffer-writing instruction does whenever it executes (R21, R150, R151). -/
def State.setFb (s : State) (f : Frame) : State := { s with fb := f, chg := true }

/-- `FB[col, row]` of a state. -/
def State.pixel (s : State) (col : Fin 64) (row : Fin 32) : Bool := s.fb.pixel col row

/-- The output port `fb_out`, in row-major order: `fb_out[64 * row + col] = FB[col, row]` (R152). -/
def State.fbOut (s : State) (j : Fin 2048) : Bool :=
  s.fb.pixel ⟨j.val % 64, by omega⟩ ⟨j.val / 64, by omega⟩

end Sys2Proof.Machine
end

