-- ==== Sys2Proof/Machine/Flags.lean ====
section
/-! DEFINITION. The flag computations: what is written to `VF` (spec/10_state.md R11), and the order of result and flag (spec/42_alu.md R120). -/

namespace Sys2Proof.Machine

/-- `VF` is `V[15]` (R11). -/
abbrev regF : RegIx := 15#4

/-- A flag as the byte 0 or 1 (R11). -/
def flagByte (f : Bool) : Byte := if f then 1 else 0

/-- Carry: the exact sum is above 255 (R127). -/
def carryOut (a b : Byte) : Bool := a.toNat + b.toNat > 255

/-- No borrow: the minuend is at least the subtrahend (R128, R130). -/
def noBorrow (minuend subtrahend : Byte) : Bool := minuend.toNat ≥ subtrahend.toNat

/-- The bit a right shift by one shifts out (R129). -/
def shiftedOutRight (a : Byte) : Bool := a.getLsbD 0

/-- The bit a left shift by one shifts out (R131). -/
def shiftedOutLeft (a : Byte) : Bool := a.getLsbD 7

/-- The heuristic of `ADD I, Vx`: the old `I` is strictly above 0x0F00 (R141). -/
def indexFlag (oldIdx : Word) : Bool := oldIdx.toNat > Config.idxFlagThreshold

/-- `V[15] <- 1 if f else 0` (R11). -/
def State.setFlag (s : State) (f : Bool) : State := s.setReg regF (flagByte f)

/-- The result to `V[x]`, then, last, the flag to `V[15]`; with `x = 15` the result is lost (R120). -/
def State.setResultFlag (s : State) (x : RegIx) (result : Byte) (f : Bool) : State := (s.setReg x result).setFlag f

end Sys2Proof.Machine
end

