-- ==== Sys2Proof/Machine/Alu.lean ====
section
/-! DEFINITION. Registers and ALU (spec/42_alu.md R121 to R132); operands are read before anything is written (R120). -/

namespace Sys2Proof.Machine

/-- `LD Vx, kk` (R121). -/
def execLdImm (x : RegIx) (kk : Byte) (s : State) : Result := .next (s.setReg x kk).advance

/-- `ADD Vx, kk` (R122): no flag. -/
def execAddImm (x : RegIx) (kk : Byte) (s : State) : Result := .next (s.setReg x (s.reg x + kk)).advance

/-- `LD Vx, Vy` (R123). -/
def execLdReg (x y : RegIx) (s : State) : Result := .next (s.setReg x (s.reg y)).advance

/-- `OR Vx, Vy` (R124): no flag. -/
def execOr (x y : RegIx) (s : State) : Result := .next (s.setReg x (s.reg x ||| s.reg y)).advance

/-- `AND Vx, Vy` (R125): no flag. -/
def execAnd (x y : RegIx) (s : State) : Result := .next (s.setReg x (s.reg x &&& s.reg y)).advance

/-- `XOR Vx, Vy` (R126): no flag. -/
def execXor (x y : RegIx) (s : State) : Result := .next (s.setReg x (s.reg x ^^^ s.reg y)).advance

/-- `ADD Vx, Vy` (R127). -/
def execAddReg (x y : RegIx) (s : State) : Result :=
  .next (s.setResultFlag x (s.reg x + s.reg y) (carryOut (s.reg x) (s.reg y))).advance

/-- `SUB Vx, Vy` (R128): minuend `V[x]`. -/
def execSub (x y : RegIx) (s : State) : Result :=
  .next (s.setResultFlag x (s.reg x - s.reg y) (noBorrow (s.reg x) (s.reg y))).advance

/-- `SHR Vx` (R129): `y` is ignored. -/
def execShr (x : RegIx) (s : State) : Result :=
  .next (s.setResultFlag x (s.reg x >>> 1) (shiftedOutRight (s.reg x))).advance

/-- `SUBN Vx, Vy` (R130): minuend `V[y]`. -/
def execSubn (x y : RegIx) (s : State) : Result :=
  .next (s.setResultFlag x (s.reg y - s.reg x) (noBorrow (s.reg y) (s.reg x))).advance

/-- `SHL Vx` (R131): `y` is ignored. -/
def execShl (x : RegIx) (s : State) : Result :=
  .next (s.setResultFlag x (s.reg x <<< 1) (shiftedOutLeft (s.reg x))).advance

/-- `RND Vx, kk` (R132): the random byte is this step's input, which nothing constrains (log 1). -/
def execRnd (x : RegIx) (kk : Byte) (s : State) : Result := .next (s.setReg x (s.rndIn &&& kk)).advance

end Sys2Proof.Machine
end

