-- ==== Sys2Proof/Machine/Operands.lean ====
section
/-! DEFINITION. The operand forms: how an instruction's fields and the registers become values and addresses (spec/30_encoding.md R62, spec/42_alu.md R134). -/

namespace Sys2Proof.Machine

/-- `zext_16(nnn)` (R62). -/
def addrWord (nnn : Addr) : Word := nnn.setWidth 16

/-- `V[0] + nnn`, exact: 0 to 4350, not reduced (R107, R134). -/
def offsetTarget (s : State) (nnn : Addr) : Nat := (s.reg 0#4).toNat + nnn.toNat

/-- `I + V[x]`, exact (R134, R141). -/
def indexSum (s : State) (x : RegIx) : Nat := s.idx.toNat + (s.reg x).toNat

/-- The effective address `I + k` of a data access, exact (R134, R146). -/
def dataAddr (s : State) (k : Nat) : Nat := s.idx.toNat + k

/-- `5 * V[x]`, the address of a glyph, exact in 16 bits, no mask (R133, R142). -/
def glyphAddr (b : Byte) : Word := 5 * b.setWidth 16

/-- `v div 100`, the hundreds (R143). -/
def bcdHundreds (b : Byte) : Byte := BitVec.ofNat 8 (b.toNat / 100)

/-- `(v div 10) mod 10`, the tens (R143). -/
def bcdTens (b : Byte) : Byte := BitVec.ofNat 8 (b.toNat / 10 % 10)

/-- `v mod 10`, the units (R143). -/
def bcdUnits (b : Byte) : Byte := BitVec.ofNat 8 (b.toNat % 10)

/-- The column of sprite column `c` when the sprite stands at `V[x] mod 64` (R151). -/
def spriteCol (vx : Byte) (c : Nat) : Fin 64 := Fin.ofNat 64 (vx.toNat % 64 + c)

/-- The row of sprite row `r` when the sprite stands at `V[y] mod 32` (R151). -/
def spriteRow (vy : Byte) (r : Nat) : Fin 32 := Fin.ofNat 32 (vy.toNat % 32 + r)

/-- `KEY[k]` for `k` in 0 to 15 (R18). -/
def State.keyDown (s : State) (k : Nat) : Bool := s.key.getLsbD k

end Sys2Proof.Machine
end

