-- ==== Sys2Proof/Machine/Control.lean ====
section
/-! DEFINITION. Control transfer (spec/41_control_flow.md R100 to R107). -/

namespace Sys2Proof.Machine

/-- `RET` (R100): underflow is tested before the range of the popped address (R179). -/
def execRet (s : State) : Result :=
  if s.sp = 0 then raise .stackUnderflow else s.pop.jump s.top.toNat

/-- `JP nnn` (R101). -/
def execJp (nnn : Addr) (s : State) : Result := s.jump (addrWord nnn).toNat

/-- `CALL nnn` (R102): pushes the address after this instruction. -/
def execCall (nnn : Addr) (s : State) : Result :=
  if h : s.sp.val < 16 then (s.push (s.pc + 2) h).jump (addrWord nnn).toNat else raise .stackOverflow

/-- `SE Vx, kk` (R103). -/
def execSeImm (x : RegIx) (kk : Byte) (s : State) : Result := .next (s.skipIf (s.reg x == kk))

/-- `SNE Vx, kk` (R104). -/
def execSneImm (x : RegIx) (kk : Byte) (s : State) : Result := .next (s.skipIf (s.reg x != kk))

/-- `SE Vx, Vy` (R105); the low nibble is ignored (R66). -/
def execSeReg (x y : RegIx) (s : State) : Result := .next (s.skipIf (s.reg x == s.reg y))

/-- `SNE Vx, Vy` (R106); the low nibble is ignored (R66). -/
def execSneReg (x y : RegIx) (s : State) : Result := .next (s.skipIf (s.reg x != s.reg y))

/-- `JP V0, nnn` (R107): the sum is checked, not reduced. -/
def execJpV0 (nnn : Addr) (s : State) : Result := s.jump (offsetTarget s nnn)

end Sys2Proof.Machine
end

