-- ==== Sys2Proof/Machine/Display.lean ====
section
/-! DEFINITION. The framebuffer instructions (spec/44_display.md R150, R151). -/

namespace Sys2Proof.Machine

/-- A framebuffer being drawn on, and whether a set pixel has been turned off so far (R151). -/
structure Canvas where
  fb : Frame
  hit : Bool
  deriving DecidableEq, Repr

/-- Column `c` of sprite row `r`: a 1 bit (bit 7 is the leftmost) inverts its pixel and collides with a pixel that is 1;
a 0 bit does nothing (R151). -/
def drawColumn (vx vy : Byte) (r : Nat) (b : Byte) (cv : Canvas) (c : Nat) : Canvas :=
  if b.getLsbD (7 - c) then
    { fb := cv.fb.flipPixel (spriteCol vx c) (spriteRow vy r)
      hit := cv.hit || cv.fb.pixel (spriteCol vx c) (spriteRow vy r) }
  else cv

/-- Sprite row `r`, columns left to right (R151). -/
def drawRow (vx vy : Byte) (r : Nat) (b : Byte) (cv : Canvas) : Canvas :=
  (List.range 8).foldl (drawColumn vx vy r b) cv

/-- The `n` rows of the sprite at `base`, top to bottom, on a framebuffer without a collision yet (R151). -/
def drawSprite (s : State) (vx vy : Byte) (base n : Nat) : Canvas :=
  (List.range n).foldl (fun cv r => drawRow vx vy r (s.byteAt (base + r)) cv) { fb := s.fb, hit := false }

/-- `CLS` (R150). -/
def execCls (s : State) : Result := .next (s.setFb Frame.blank).advance

/-- `DRW Vx, Vy, n` (R151): coordinates latched before `VF` is written; with `n = 0` no memory is read and no range is checked;
`VF` and `CHG` are always written. -/
def execDrw (x y : RegIx) (n : Nibble) (s : State) : Result :=
  let drawn := drawSprite s (s.reg x) (s.reg y) (dataAddr s 0) n.toNat
  let done : Result := .next ((s.setFb drawn.fb).setFlag drawn.hit).advance
  if n = 0 then done else inRange (dataAddr s 0) n.toNat done

end Sys2Proof.Machine
end

