-- ==== Sys2Proof/Machine/Index.lean ====
section
/-! DEFINITION. The index register and memory (spec/43_index_and_memory.md R140 to R145). -/

namespace Sys2Proof.Machine

/-- `LD I, nnn` (R140). -/
def execLdIndex (nnn : Addr) (s : State) : Result := .next (s.setIdx (addrWord nnn)).advance

/-- `ADD I, Vx` (R141): the sum is checked before anything is written; the flag looks at the old `I` alone. -/
def execAddIndex (x : RegIx) (s : State) : Result :=
  if indexSum s x ≥ Config.memSize then raise (.outOfRange (indexSum s x))
  else .next ((s.setIdx (BitVec.ofNat 16 (indexSum s x))).setFlag (indexFlag s.idx)).advance

/-- `LD F, Vx` (R142). -/
def execLdFont (x : RegIx) (s : State) : Result := .next (s.setIdx (glyphAddr (s.reg x))).advance

/-- `LD B, Vx` (R143): hundreds at `I`, tens at `I + 1`, units at `I + 2`. -/
def execLdBcd (x : RegIx) (s : State) : Result :=
  inRange (dataAddr s 0) 3
    (.next (s.setMem (((s.mem.write (dataAddr s 0) (bcdHundreds (s.reg x))).write (dataAddr s 1) (bcdTens (s.reg x))).write
      (dataAddr s 2) (bcdUnits (s.reg x)))).advance)

/-- `LD [I], Vx` (R144): `x + 1` bytes; `I` is unchanged. -/
def execStoreRegs (x : RegIx) (s : State) : Result :=
  inRange (dataAddr s 0) (x.toNat + 1) (.next (s.setMem (s.storeBlock (dataAddr s 0) (x.toNat + 1))).advance)

/-- `LD Vx, [I]` (R145): `x + 1` bytes; `I` is unchanged. -/
def execLoadRegs (x : RegIx) (s : State) : Result :=
  inRange (dataAddr s 0) (x.toNat + 1) (.next (s.loadBlock (dataAddr s 0) (x.toNat + 1)).advance)

end Sys2Proof.Machine
end

