-- ==== Sys2Proof/Machine/Keypad.lean ====
section
/-! DEFINITION. Timers and keypad (spec/45_timers_and_keypad.md R160 to R165). The keys are this step's snapshot and the timers have had this step's decrement (R83). -/

namespace Sys2Proof.Machine

/-- `SKP Vx` (R160). -/
def execSkp (x : RegIx) (s : State) : Result :=
  if (s.reg x).toNat > 15 then raise (.keyIndexOutOfRange (s.reg x))
  else .next (s.skipIf (s.keyDown (s.reg x).toNat))

/-- `SKNP Vx` (R161). -/
def execSknp (x : RegIx) (s : State) : Result :=
  if (s.reg x).toNat > 15 then raise (.keyIndexOutOfRange (s.reg x))
  else .next (s.skipIf (!s.keyDown (s.reg x).toNat))

/-- `LD Vx, DT` (R162). -/
def execLdRegDt (x : RegIx) (s : State) : Result := .next (s.setReg x s.dt).advance

/-- `LD Vx, K` (R163): enters the wait; the cursor moves past this instruction first, and no key is looked at. -/
def execLdRegKey (x : RegIx) (s : State) : Result := .next (s.beginWait x).advance

/-- `LD DT, Vx` (R164). -/
def execLdDtReg (x : RegIx) (s : State) : Result := .next (s.setDt (s.reg x)).advance

/-- `LD ST, Vx` (R165). -/
def execLdStReg (x : RegIx) (s : State) : Result := .next (s.setSt (s.reg x)).advance

end Sys2Proof.Machine
end

