-- ==== Sys2Proof/Machine/Unknown.lean ====
section
/-! DEFINITION. UNKNOWN, the decoder's fallback (spec/40_step_and_cursor.md R90). -/

namespace Sys2Proof.Machine

/-- `UNKNOWN`: a non-fatal event on `unknown_out`, and an advance (R90, R177). -/
def execUnknown (op : Word) (s : State) : Result := .next (s.emitUnknown op).advance

end Sys2Proof.Machine
end

