-- ==== Sys2Proof/Machine/Driver.lean ====
section
/-! DEFINITION. The step driver (spec/40_step_and_cursor.md R81 to R85): one step as a function of the entry state and the host's input. -/

namespace Sys2Proof.Machine

/-- The lowest key that is down, if any (R82: ascending order, lowest index wins). -/
def lowestKey (keys : BitVec 16) : Option Nat := (List.range 16).find? (fun k => keys.getLsbD k)

/-- Step entry (R81 (1), (2)): the key snapshot is latched, `rnd_in` sampled, `CHG` cleared, `unknown_out` none. -/
def State.enter (s : State) (inp : Input) : State :=
  { s with key := inp.keys, rndIn := inp.rnd, chg := false, unknownOut := none }

/-- The waiting branch (R82): the first pressed key goes to `V[WREG]` and ends the wait; with no key down nothing changes. -/
def State.waitingBranch (s : State) : State :=
  match lowestKey s.key with
  | some k => (s.setReg s.wreg (BitVec.ofNat 8 k)).endWait
  | none => s

/-- The running branch (R83 to R85): timers, then fetch, decode and execute exactly one instruction. -/
def State.runningBranch (s : State) : Result :=
  match s.tickTimers.fetch with
  | .ok op => exec (decode op) s.tickTimers
  | .error f => raise f

/-- One step on a given input (R81): the branch is chosen by the value `WAIT` has at entry. -/
def stepWith (inp : Input) (s : State) : Result :=
  if s.wait then .next (s.enter inp).waitingBranch else (s.enter inp).runningBranch

/-- The host's input for the next step: the oldest one it has presented; past those, free values (R80; log 1). -/
def State.nextInput (s : State) : Input :=
  match s.inputs with
  | inp :: _ => inp
  | [] => { keys := Config.keysIn s.tick, rnd := Config.rndIn s.tick }

/-- The input has been taken, and the step counted (R80; log 1). -/
def State.takeInput (s : State) : State := { s with inputs := s.inputs.tail, tick := s.tick + 1 }

/-- `s` with the two bytes of `op` where the next step fetches (R43, R84), and the driver running.
A cursor from which nothing can be fetched is set to the reset value 0x200 first. -/
def State.placeWord (s : State) (op : Word) : State :=
  let target : Word := if s.pc.toNat + 1 < Config.memSize then s.pc else 0x200
  { s with
    pc := target
    wait := false
    mem := (s.mem.write target.toNat (op.extractLsb' 8 8)).write (target.toNat + 1) (op.extractLsb' 0 8) }

end Sys2Proof.Machine
end

