-- ==== Sys2Proof/Machine/Step.lean ====
section
/-! DEFINITION. One step of the machine (spec/40_step_and_cursor.md R81, R91). -/

namespace Sys2Proof.Machine

/-- One requested step: the host's next input is taken and the step driver runs on it (R80, R81). -/
def step (s : State) : Host.Outcome State Fault Refusal := stepWith s.nextInput s.takeInput

/-- `s` with the table word `w` of `nbits` bits (bits above them zero) where the next step fetches, so that this step runs it (log 6). -/
def State.withFetchWord (s : State) (nbits w : Nat) : State := s.placeWord (BitVec.ofNat 16 (w % 2 ^ nbits))

end Sys2Proof.Machine
end

