-- ==== Sys2Proof/Machine/Boot.lean ====
section
/-! DEFINITION. Initialisation (spec/70_reset_and_hazards.md R190, R191): the port `init` with a font and a program image. -/

namespace Sys2Proof.Machine

/-- Bytes written at `a` upward, silently stopping at the end of memory: the rest is dropped (R53). -/
def loadBytes : Memory → Nat → List Byte → Memory
  | m, _, [] => m
  | m, a, b :: bs => if a < Config.memSize then loadBytes (m.write a b) (a + 1) bs else m

/-- The reset state for a font and a program image (R190): memory zeroed but for the font, then the image from 0x200 (R191).
The font bytes are written over what an unlisted address reads as, so any font gives the image R41 says (log 4). -/
def State.init (font : Vector Byte 80) (image : List Byte) : State :=
  { State.reset with mem := loadBytes (loadBytes State.reset.mem 0 font.toList) Config.progBase image }

end Sys2Proof.Machine
end

