-- ==== Sys2Proof/Safety.lean ====
section
/-! DEFINITION. The terms claims use: the invariant of the machine (spec/10_state.md R30), the parts of the state and what a frame says of them, which instruction reads and writes which register (R27), when an instruction faults (spec/60_exceptions.md R171). -/

namespace Sys2Proof.Machine

/-- What holds in every reachable state (R30), and the canonical form of memory (log 4). The ranges of `SP`, `V[i]`, `DT`, `ST` and
`WREG` that R30 lists hold by the types of those fields. -/
structure State.Inv (s : State) : Prop where
  /-- `I <= 4095` (R12). -/
  idx_le : s.idx.toNat ≤ 4095
  /-- `pc <= 4099` (R13). -/
  pc_le : s.pc.toNat ≤ 4099
  /-- Every live stack slot holds 2 to 4096. -/
  slot_range : ∀ k : Fin 16, k.val < s.sp.val → 2 ≤ s.stack[k.val].toNat ∧ s.stack[k.val].toNat ≤ 4096
  /-- Memory is in canonical form. -/
  mem_wf : s.mem.wf = true

/-- A run of `k` steps with no fault and no refusal: what a claim about a program takes as something to prove (R170). -/
def RunsSafely (k : Nat) (s : State) : Prop := ∃ t, Sys2Proof.core.run k s = .next t

/-- The instruction a step at `s` executes: none in a waiting step or when fetch faults (R81 to R85). -/
def State.nextInstr (s : State) : Option Instr :=
  if s.wait then none
  else match s.fetch with
    | .ok op => some (decode op)
    | .error _ => none

/-! ### Frames -/

/-- The parts of the state, one register, stack slot, pixel or memory byte at a time. -/
inductive Part where
  | reg (r : RegIx)
  | index
  | cursor
  | slot (k : Fin 16)
  | stackPointer
  | delay
  | sound
  | keys
  | waiting
  | waitTarget
  | pixel (col : Fin 64) (row : Fin 32)
  | changed
  | byte (a : Nat)
  | unknownOut
  | rndIn
  | inputs
  | tick
  deriving DecidableEq, Repr

/-- The part has the same content in `t` as in `s`. -/
def Part.Same (s t : State) : Part → Prop
  | .reg r => t.reg r = s.reg r
  | .index => t.idx = s.idx
  | .cursor => t.pc = s.pc
  | .slot k => t.stack[k.val] = s.stack[k.val]
  | .stackPointer => t.sp = s.sp
  | .delay => t.dt = s.dt
  | .sound => t.st = s.st
  | .keys => t.key = s.key
  | .waiting => t.wait = s.wait
  | .waitTarget => t.wreg = s.wreg
  | .pixel col row => t.pixel col row = s.pixel col row
  | .changed => t.chg = s.chg
  | .byte a => t.byteAt a = s.byteAt a
  | .unknownOut => t.unknownOut = s.unknownOut
  | .rndIn => t.rndIn = s.rndIn
  | .inputs => t.inputs = s.inputs
  | .tick => t.tick = s.tick

/-- The frame: from `s` to `t` nothing has changed but, at most, the listed parts. -/
def OnlyChanges (may : List Part) (s t : State) : Prop := ∀ p, p ∉ may → p.Same s t

/-- The frame of an instruction that draws: nothing but the listed parts and pixels. -/
def OnlyChangesBesidePixels (may : List Part) (s t : State) : Prop :=
  ∀ p, p ∉ may → (∀ col row, p ≠ .pixel col row) → p.Same s t

/-- The parts `MEM[base]` to `MEM[base + count - 1]`. -/
def byteParts (base count : Nat) : List Part := (List.range count).map (fun k => .byte (base + k))

/-- The parts `V[0]` to `V[x]`. -/
def regPartsTo (x : RegIx) : List Part := (List.range (x.toNat + 1)).map (fun k => .reg (BitVec.ofNat 4 k))

/-! ### Drawing -/

/-- A sprite bit that is 1 falls on pixel (`col`, `row`) when `DRW Vx, Vy, n` runs in `s` (R151). -/
def SpriteCovers (s : State) (x y : RegIx) (n : Nibble) (col : Fin 64) (row : Fin 32) : Prop :=
  ∃ r c : Nat, r < n.toNat ∧ c < 8 ∧ (s.byteAt (s.idx.toNat + r)).getLsbD (7 - c) = true ∧
    col.val = ((s.reg x).toNat % 64 + c) % 64 ∧ row.val = ((s.reg y).toNat % 32 + r) % 32

/-! ### The access matrix of the general registers (R27) -/

/-- The instruction reads register `r` (R27). -/
def readsReg : Instr → RegIx → Bool
  | .seImm x _, r | .sneImm x _, r | .addImm x _, r | .shr x _, r | .shl x _, r | .skp x, r | .sknp x, r | .ldDtReg x, r
  | .ldStReg x, r | .addIndex x, r | .ldFont x, r | .ldBcd x, r => r == x
  | .seReg x y _, r | .sneReg x y _, r | .orReg x y, r | .andReg x y, r | .xorReg x y, r | .addReg x y, r | .subReg x y, r
  | .subnReg x y, r | .drw x y _, r => r == x || r == y
  | .ldReg _ y, r => r == y
  | .jpV0 _, r => r == 0#4
  | .storeRegs x, r => r ≤ x
  | .cls, _ | .ret, _ | .jp _, _ | .call _, _ | .ldImm _ _, _ | .ldIndex _, _ | .rnd _ _, _ | .ldRegDt _, _ | .ldRegKey _, _
  | .loadRegs _, _ | .unknown _, _ => false

/-- The instruction writes register `r` (R27). -/
def writesReg : Instr → RegIx → Bool
  | .ldImm x _, r | .addImm x _, r | .ldReg x _, r | .orReg x _, r | .andReg x _, r | .xorReg x _, r | .rnd x _, r
  | .ldRegDt x, r => r == x
  | .addReg x _, r | .subReg x _, r | .subnReg x _, r | .shr x _, r | .shl x _, r => r == x || r == 15#4
  | .drw _ _ _, r | .addIndex _, r => r == 15#4
  | .loadRegs x, r => r ≤ x
  | .cls, _ | .ret, _ | .jp _, _ | .call _, _ | .seImm _ _, _ | .sneImm _ _, _ | .seReg _ _ _, _ | .sneReg _ _ _, _
  | .ldIndex _, _ | .jpV0 _, _ | .skp _, _ | .sknp _, _ | .ldRegKey _, _ | .ldDtReg _, _ | .ldStReg _, _ | .ldFont _, _
  | .ldBcd _, _ | .storeRegs _, _ | .unknown _, _ => false

/-- The instruction writes `VF` as a flag (R11). -/
def writesFlag : Instr → Bool
  | .addReg _ _ | .subReg _ _ | .subnReg _ _ | .shr _ _ | .shl _ _ | .addIndex _ | .drw _ _ _ => true
  | .cls | .ret | .jp _ | .call _ | .seImm _ _ | .sneImm _ _ | .seReg _ _ _ | .sneReg _ _ _ | .ldImm _ _ | .addImm _ _
  | .ldReg _ _ | .orReg _ _ | .andReg _ _ | .xorReg _ _ | .ldIndex _ | .jpV0 _ | .rnd _ _ | .skp _ | .sknp _ | .ldRegDt _
  | .ldRegKey _ | .ldDtReg _ | .ldStReg _ | .ldFont _ | .ldBcd _ | .storeRegs _ | .loadRegs _ | .unknown _ => false

/-! ### Control transfer (R92) -/

/-- The instructions that end with `jump`: Return, Jump, Call, Jump-with-offset (R92). -/
def endsWithJump : Instr → Bool
  | .ret | .jp _ | .call _ | .jpV0 _ => true
  | .cls | .seImm _ _ | .sneImm _ _ | .seReg _ _ _ | .sneReg _ _ _ | .ldImm _ _ | .addImm _ _ | .ldReg _ _ | .orReg _ _
  | .andReg _ _ | .xorReg _ _ | .addReg _ _ | .subReg _ _ | .shr _ _ | .subnReg _ _ | .shl _ _ | .ldIndex _ | .rnd _ _
  | .drw _ _ _ | .skp _ | .sknp _ | .ldRegDt _ | .ldRegKey _ | .ldDtReg _ | .ldStReg _ | .addIndex _ | .ldFont _ | .ldBcd _
  | .storeRegs _ | .loadRegs _ | .unknown _ => false

/-- The skip family (R92). -/
def endsWithSkip : Instr → Bool
  | .seImm _ _ | .sneImm _ _ | .seReg _ _ _ | .sneReg _ _ _ | .skp _ | .sknp _ => true
  | .cls | .ret | .jp _ | .call _ | .jpV0 _ | .ldImm _ _ | .addImm _ _ | .ldReg _ _ | .orReg _ _ | .andReg _ _ | .xorReg _ _
  | .addReg _ _ | .subReg _ _ | .shr _ _ | .subnReg _ _ | .shl _ _ | .ldIndex _ | .rnd _ _ | .drw _ _ _ | .ldRegDt _
  | .ldRegKey _ | .ldDtReg _ | .ldStReg _ | .addIndex _ | .ldFont _ | .ldBcd _ | .storeRegs _ | .loadRegs _ | .unknown _ => false

/-! ### When an instruction faults (R171) -/

/-- The fault of R171's table for an instruction in a state, or none: the conditions alone, not the meaning. -/
def faultOf : Instr → State → Option Fault
  | .call _, s => if s.sp.val = 16 then some .stackOverflow else none
  | .ret, s =>
    if s.sp.val = 0 then some .stackUnderflow
    else if 4096 ≤ s.top.toNat then some (.outOfRange s.top.toNat) else none
  | .jpV0 nnn, s =>
    if 4096 ≤ (s.reg 0#4).toNat + nnn.toNat then some (.outOfRange ((s.reg 0#4).toNat + nnn.toNat)) else none
  | .addIndex x, s =>
    if 4096 ≤ s.idx.toNat + (s.reg x).toNat then some (.outOfRange (s.idx.toNat + (s.reg x).toNat)) else none
  | .drw _ _ n, s => if 0 < n.toNat ∧ 4096 < s.idx.toNat + n.toNat then some (.outOfRange 4096) else none
  | .ldBcd _, s => if 4094 ≤ s.idx.toNat then some (.outOfRange 4096) else none
  | .storeRegs x, s | .loadRegs x, s => if 4095 < s.idx.toNat + x.toNat then some (.outOfRange 4096) else none
  | .skp x, s | .sknp x, s => if 15 < (s.reg x).toNat then some (.keyIndexOutOfRange (s.reg x)) else none
  | .cls, _ | .jp _, _ | .seImm _ _, _ | .sneImm _ _, _ | .seReg _ _ _, _ | .sneReg _ _ _, _ | .ldImm _ _, _ | .addImm _ _, _
  | .ldReg _ _, _ | .orReg _ _, _ | .andReg _ _, _ | .xorReg _ _, _ | .addReg _ _, _ | .subReg _ _, _ | .shr _ _, _
  | .subnReg _ _, _ | .shl _ _, _ | .ldIndex _, _ | .rnd _ _, _ | .ldRegDt _, _ | .ldRegKey _, _ | .ldDtReg _, _
  | .ldStReg _, _ | .ldFont _, _ | .unknown _, _ => none

end Sys2Proof.Machine
end

