-- ==== Sys2Proof/Certificates/Slice0/Obligations.lean ====
section
/-! DEFINITION. The statements for the provers, from the numbered rules of spec/. Each is over every state (and every input of the host where a step is spoken of); each instruction's statement says that exec answers a next state, what that state holds, and its frame. -/

open Sys2Proof Sys2Proof.Machine

/-! ### Encoding -/

/-- Decoding the encoded word of a well-formed instruction gives the instruction back, every operand at every value (R69; ignored
bits kept, R66, log 11). Which bits mean what is the spec's general knowledge (D2, log 14). -/
def Obligations.DecodeOfEncodeIsIdentity : Prop := ∀ i : Instr, i.wellFormed = true → decode (encode i) = i

/-- Every word is the encoding of the well-formed instruction it decodes to: no bit of any word is dropped (R63, R66, R68).
The field positions are the spec's general knowledge (D2, log 14); that the ignored bits are kept is the model's (log 11). -/
def Obligations.EncodeOfDecodeIsIdentity : Prop :=
  ∀ op : Word, encode (decode op) = op ∧ (decode op).wellFormed = true

/-- The decoder against the match and mask columns of the opcode map, rows 1 to 34 (row 35, UNKNOWN, is
UnknownSpaceIsExactlyTheListedWords), each with its operand fields. The patterns and field positions are the spec's general
knowledge (D2 to D4, log 14). That the terms of `5xy_`, `9xy_`, `8x_6` and `8x_E` hold the bits the decoder ignores as well, which
are no operand, is the model's choice (R66 advises it, log 11). -/
def Obligations.DecodeFollowsOpcodeMap : Prop :=
  ∀ op : Word,
    (op = 0x00E0 → decode op = .cls) ∧
    (op = 0x00EE → decode op = .ret) ∧
    (op &&& 0xF000 = 0x1000 → decode op = .jp (op.extractLsb' 0 12)) ∧
    (op &&& 0xF000 = 0x2000 → decode op = .call (op.extractLsb' 0 12)) ∧
    (op &&& 0xF000 = 0x3000 → decode op = .seImm (op.extractLsb' 8 4) (op.extractLsb' 0 8)) ∧
    (op &&& 0xF000 = 0x4000 → decode op = .sneImm (op.extractLsb' 8 4) (op.extractLsb' 0 8)) ∧
    (op &&& 0xF000 = 0x5000 → decode op = .seReg (op.extractLsb' 8 4) (op.extractLsb' 4 4) (op.extractLsb' 0 4)) ∧
    (op &&& 0xF000 = 0x6000 → decode op = .ldImm (op.extractLsb' 8 4) (op.extractLsb' 0 8)) ∧
    (op &&& 0xF000 = 0x7000 → decode op = .addImm (op.extractLsb' 8 4) (op.extractLsb' 0 8)) ∧
    (op &&& 0xF00F = 0x8000 → decode op = .ldReg (op.extractLsb' 8 4) (op.extractLsb' 4 4)) ∧
    (op &&& 0xF00F = 0x8001 → decode op = .orReg (op.extractLsb' 8 4) (op.extractLsb' 4 4)) ∧
    (op &&& 0xF00F = 0x8002 → decode op = .andReg (op.extractLsb' 8 4) (op.extractLsb' 4 4)) ∧
    (op &&& 0xF00F = 0x8003 → decode op = .xorReg (op.extractLsb' 8 4) (op.extractLsb' 4 4)) ∧
    (op &&& 0xF00F = 0x8004 → decode op = .addReg (op.extractLsb' 8 4) (op.extractLsb' 4 4)) ∧
    (op &&& 0xF00F = 0x8005 → decode op = .subReg (op.extractLsb' 8 4) (op.extractLsb' 4 4)) ∧
    (op &&& 0xF00F = 0x8006 → decode op = .shr (op.extractLsb' 8 4) (op.extractLsb' 4 4)) ∧
    (op &&& 0xF00F = 0x8007 → decode op = .subnReg (op.extractLsb' 8 4) (op.extractLsb' 4 4)) ∧
    (op &&& 0xF00F = 0x800E → decode op = .shl (op.extractLsb' 8 4) (op.extractLsb' 4 4)) ∧
    (op &&& 0xF000 = 0x9000 → decode op = .sneReg (op.extractLsb' 8 4) (op.extractLsb' 4 4) (op.extractLsb' 0 4)) ∧
    (op &&& 0xF000 = 0xA000 → decode op = .ldIndex (op.extractLsb' 0 12)) ∧
    (op &&& 0xF000 = 0xB000 → decode op = .jpV0 (op.extractLsb' 0 12)) ∧
    (op &&& 0xF000 = 0xC000 → decode op = .rnd (op.extractLsb' 8 4) (op.extractLsb' 0 8)) ∧
    (op &&& 0xF000 = 0xD000 → decode op = .drw (op.extractLsb' 8 4) (op.extractLsb' 4 4) (op.extractLsb' 0 4)) ∧
    (op &&& 0xF0FF = 0xE09E → decode op = .skp (op.extractLsb' 8 4)) ∧
    (op &&& 0xF0FF = 0xE0A1 → decode op = .sknp (op.extractLsb' 8 4)) ∧
    (op &&& 0xF0FF = 0xF007 → decode op = .ldRegDt (op.extractLsb' 8 4)) ∧
    (op &&& 0xF0FF = 0xF00A → decode op = .ldRegKey (op.extractLsb' 8 4)) ∧
    (op &&& 0xF0FF = 0xF015 → decode op = .ldDtReg (op.extractLsb' 8 4)) ∧
    (op &&& 0xF0FF = 0xF018 → decode op = .ldStReg (op.extractLsb' 8 4)) ∧
    (op &&& 0xF0FF = 0xF01E → decode op = .addIndex (op.extractLsb' 8 4)) ∧
    (op &&& 0xF0FF = 0xF029 → decode op = .ldFont (op.extractLsb' 8 4)) ∧
    (op &&& 0xF0FF = 0xF033 → decode op = .ldBcd (op.extractLsb' 8 4)) ∧
    (op &&& 0xF0FF = 0xF055 → decode op = .storeRegs (op.extractLsb' 8 4)) ∧
    (op &&& 0xF0FF = 0xF065 → decode op = .loadRegs (op.extractLsb' 8 4))

/-- A word decodes to UNKNOWN exactly when R65 lists it, and then UNKNOWN carries that word (R65; D3, D5, log 5). -/
def Obligations.UnknownSpaceIsExactlyTheListedWords : Prop :=
  ∀ op w : Word,
    decode op = .unknown w ↔
      w = op ∧
        ((op.toNat < 0x1000 ∧ op.toNat ≠ 0x0E0 ∧ op.toNat ≠ 0x0EE) ∨
          (0x8000 ≤ op.toNat ∧ op.toNat < 0x9000 ∧ op.toNat % 16 ∈ [0x8, 0x9, 0xA, 0xB, 0xC, 0xD, 0xF]) ∨
          (0xE000 ≤ op.toNat ∧ op.toNat < 0xF000 ∧ op.toNat % 256 ∉ [0x9E, 0xA1]) ∨
          (0xF000 ≤ op.toNat ∧ op.toNat % 256 ∉ [0x07, 0x0A, 0x15, 0x18, 0x1E, 0x29, 0x33, 0x55, 0x65]))

/-- A few words written out from the opcode map, one or more a family (95_test_vectors.md section 2.1; sanity). The patterns are the
spec's general knowledge (D2 to D5, log 14); the last field of the `SHR`, `SE Vx, Vy` and `SNE Vx, Vy` terms is the ignored bits,
kept by the model's choice (R66 advises it, log 11). -/
def Obligations.SpecWordsDecode : Prop :=
  decode 0x6005 = .ldImm 0 5 ∧ decode 0x700A = .addImm 0 10 ∧ decode 0xD125 = .drw 1 2 5 ∧ decode 0xF30A = .ldRegKey 3 ∧
    decode 0x8106 = .shr 1 0 ∧ decode 0x81F6 = .shr 1 15 ∧ decode 0x512F = .seReg 1 2 15 ∧ decode 0x9AB7 = .sneReg 10 11 7 ∧
    decode 0xBFFF = .jpV0 0xFFF ∧ decode 0x220A = .call 0x20A ∧ decode 0x00EE = .ret ∧ decode 0x0FEE = .unknown 0x0FEE ∧
    decode 0xE19E = .skp 1 ∧ decode 0xE19F = .unknown 0xE19F ∧ decode 0xF265 = .loadRegs 2 ∧ decode 0x0000 = .unknown 0

/-! ### Initialisation -/

/-- The memory image after initialisation, for every font and every image (R53): image bytes from 0x200 as far as memory goes, the
rest dropped without a fault, zero after the image, and the font intact below. -/
def Obligations.InitLoadsFontAndImage : Prop :=
  ∀ (font : Vector Byte 80) (image : List Byte) (a : Nat), a < 4096 →
    (State.init font image).byteAt a =
      if a < 80 then font.toList.getD a 0
      else if a < 0x200 then 0
      else image.getD (a - 0x200) 0

/-- Every field but memory after initialisation, for every font and image (R190); with the default font and the empty image it is
the reset state. `I`, `FB`, `CHG` and `WREG` are zero by the spec's decision D22 (log 5), `unknown_out` is a field by the model's
choice (log 7); the default font is PRESUMED (log 3). -/
def Obligations.InitLeavesTheResetValues : Prop :=
  (∀ (font : Vector Byte 80) (image : List Byte),
    (∀ r, (State.init font image).reg r = 0) ∧ (State.init font image).idx = 0 ∧ (State.init font image).pc = 0x200 ∧
    (∀ k : Fin 16, (State.init font image).stack[k.val] = 0) ∧ (State.init font image).sp = 0 ∧
    (State.init font image).dt = 0 ∧ (State.init font image).st = 0 ∧ (State.init font image).key = 0 ∧
    (State.init font image).wait = false ∧ (State.init font image).wreg = 0 ∧
    (∀ col row, (State.init font image).pixel col row = false) ∧ (State.init font image).chg = false ∧
    (State.init font image).unknownOut = none) ∧
  State.init defaultFont [] = State.reset

/-! ### The step driver -/

/-- A step takes the oldest input the host has presented, or, past those, the free values of the step's number; it counts the step.
The queue and the counter are the model's own (log 1). -/
def Obligations.StepTakesTheHostsInput : Prop :=
  (∀ (s : State) (inp : Input) (rest : List Input), s.inputs = inp :: rest →
    step s = stepWith inp { s with inputs := rest, tick := s.tick + 1 }) ∧
  (∀ s : State, s.inputs = [] →
    step s = stepWith { keys := Config.keysIn s.tick, rnd := Config.rndIn s.tick } { s with tick := s.tick + 1 })

/-- A running step whose word lies in memory is exec of the decoded instruction, at the entry state with the keys latched, `rnd_in`
sampled, `CHG` and `unknown_out` cleared and both timers counted down; `pc` is still the instruction's own address (R13, R81, R83,
R84, R85). Big-endian fetch is the spec's decision D1 (log 14).
The second half says the same of `step`, which takes its input from the model's own queue, drops it there and counts the step: the
model's choice (log 1), as are the field that holds the sampled byte (log 2) and the one for `unknown_out` (log 7). -/
def Obligations.RunningStepRunsTheDecodedInstruction : Prop :=
  (∀ (inp : Input) (s : State), s.wait = false → s.pc.toNat + 1 < 4096 →
    stepWith inp s =
      exec (decode (s.byteAt s.pc.toNat ++ s.byteAt (s.pc.toNat + 1)))
        { s with
          key := inp.keys, rndIn := inp.rnd, chg := false, unknownOut := none
          dt := if s.dt = 0 then 0 else s.dt - 1
          st := if s.st = 0 then 0 else s.st - 1 }) ∧
  (∀ s : State, s.wait = false → s.pc.toNat + 1 < 4096 →
    step s =
      exec (decode (s.byteAt s.pc.toNat ++ s.byteAt (s.pc.toNat + 1)))
        { s with
          key := s.nextInput.keys, rndIn := s.nextInput.rnd, chg := false, unknownOut := none
          dt := if s.dt = 0 then 0 else s.dt - 1
          st := if s.st = 0 then 0 else s.st - 1
          inputs := s.inputs.tail, tick := s.tick + 1 })

/-- The waiting branch (R82): with no key down nothing changes but the latched inputs; otherwise the lowest pressed key's index goes
to `V[WREG]` and the wait ends; it never faults, and fetches nothing. That a key held from before counts is the spec's decision D21
(log 5). The fields for the sampled byte and for `unknown_out` are the model's (logs 2 and 7). -/
def Obligations.WaitingStepScansKeys : Prop :=
  ∀ (inp : Input) (s : State), s.wait = true →
    (inp.keys = 0 →
      ∃ t, stepWith inp s = .next t ∧ t.key = inp.keys ∧ t.chg = false ∧ t.unknownOut = none ∧
        OnlyChanges [.keys, .rndIn, .changed, .unknownOut] s t) ∧
    (∀ k : Nat, k < 16 → inp.keys.getLsbD k = true → (∀ j, j < k → inp.keys.getLsbD j = false) →
      ∃ t, stepWith inp s = .next t ∧ (t.reg s.wreg).toNat = k ∧ t.wait = false ∧ t.key = inp.keys ∧ t.chg = false ∧
        t.unknownOut = none ∧ OnlyChanges [.reg s.wreg, .waiting, .keys, .rndIn, .changed, .unknownOut] s t)

/-- Fetch (R84): the two bytes at the cursor, whatever its parity, or the fault of the first byte that is out of range.
The byte order is the spec's decision D1 (log 14), the faults D9 and D11, the odd cursor D12 (log 5). -/
def Obligations.FetchReadsTwoBytesOrFaults : Prop :=
  ∀ s : State,
    (4096 ≤ s.pc.toNat → s.fetch = .error (.outOfRange s.pc.toNat)) ∧
    (s.pc.toNat = 4095 → s.fetch = .error (.outOfRange 4096)) ∧
    (s.pc.toNat < 4095 → s.fetch = .ok (s.byteAt s.pc.toNat ++ s.byteAt (s.pc.toNat + 1))) ∧
    (s.wait = false → ∀ f, s.fetch = .error f → ∀ inp, stepWith inp s = .fault f)

/-- The outputs of a completed step and the key latch: `KEY` is the snapshot (R18); `changed` is true exactly when `CLS` or `DRW`
ran (R21, D16, log 5); `unknown_out` is valid exactly when UNKNOWN ran, with its word (R90, R177, D30; a field by the model's
choice, log 7); and if `changed` is false no pixel differs (R198). -/
def Obligations.StepOutputs : Prop :=
  ∀ (inp : Input) (s t : State), stepWith inp s = .next t →
    t.key = inp.keys ∧
    (t.chg = true ↔ s.nextInstr = some .cls ∨ ∃ x y n, s.nextInstr = some (.drw x y n)) ∧
    (∀ op, t.unknownOut = some op ↔ s.nextInstr = some (.unknown op)) ∧
    (t.chg = false → ∀ col row, t.pixel col row = s.pixel col row)

/-- The timers (R16, R17, R83, R183): frozen in a waiting step; in a running step each counts down by one, saturating at 0, unless
the step executes the instruction that writes it, and then it holds the register's value. That nothing else counts them down is the
spec's decision D20 (log 5). -/
def Obligations.TimersCountRunningStepsOnly : Prop :=
  ∀ (inp : Input) (s t : State), stepWith inp s = .next t →
    (s.wait = true → t.dt = s.dt ∧ t.st = s.st) ∧
    (s.wait = false →
      ((∀ x, s.nextInstr ≠ some (.ldDtReg x)) → t.dt.toNat = s.dt.toNat - 1) ∧
      ((∀ x, s.nextInstr ≠ some (.ldStReg x)) → t.st.toNat = s.st.toNat - 1) ∧
      (∀ x, s.nextInstr = some (.ldDtReg x) → t.dt = s.reg x) ∧
      (∀ x, s.nextInstr = some (.ldStReg x) → t.st = s.reg x))

/-- A step faults exactly where the fault table says, with that fault, and is never refused: a waiting step never, fetch first, then
the instruction's own conditions in the entry state (R171, R176, R179; the conditions are the spec's decisions D6 to D13, log 5). -/
def Obligations.StepFaultsExactlyAsTheTableSays : Prop :=
  ∀ (inp : Input) (s : State),
    (∀ f, stepWith inp s = .fault f ↔
      s.wait = false ∧
        ((4096 ≤ s.pc.toNat ∧ f = .outOfRange s.pc.toNat) ∨
          (s.pc.toNat = 4095 ∧ f = .outOfRange 4096) ∨
          ∃ i, s.nextInstr = some i ∧ faultOf i s = some f)) ∧
    (∀ r, stepWith inp s ≠ .refused r)

/-- The codes and info words of the four kinds (R171, D6, log 5). -/
def Obligations.FaultCodesAndInfo : Prop :=
  (Fault.stackOverflow.code = 1 ∧ Fault.stackOverflow.info = 0) ∧
  (Fault.stackUnderflow.code = 2 ∧ Fault.stackUnderflow.info = 0) ∧
  (∀ v : Nat, v < 65536 → (Fault.outOfRange v).code = 3 ∧ (Fault.outOfRange v).info.toNat = v) ∧
  (∀ k : Byte, (Fault.keyIndexOutOfRange k).code = 4 ∧ (Fault.keyIndexOutOfRange k).info.toNat = k.toNat)

/-! ### Whole-machine rules -/

/-- The invariant of R30, with the canonical form of memory (log 4), is kept by every step, from every state that meets it and on
every input. R30 is the spec's own inference; that `I` stays below 4096 rests on its decision D10 (log 5). -/
def Obligations.StepKeepsTheInvariant : Prop :=
  (∀ s t : State, s.Inv → step s = .next t → t.Inv) ∧
  (∀ (inp : Input) (s t : State), s.Inv → stepWith inp s = .next t → t.Inv)

/-- The invariant holds after initialisation with any font and image, and at reset (R29, R30, R190; R30 is the spec's own inference,
`I = 0` its decision D22, log 5). -/
def Obligations.InitMeetsTheInvariant : Prop :=
  (∀ (font : Vector Byte 80) (image : List Byte), (State.init font image).Inv) ∧ State.reset.Inv

/-- Where every instruction leaves the cursor when it completes (R92): by 2 outside the jump and skip families, by 2 or 4 in the skip
family, and at an address below 4096 after a jump. The last clause is not R92's: it follows from `jump`'s range check
(R89, the spec's decision D11, log 5) and from `RET` going through `jump`, which the spec infers. -/
def Obligations.CursorMovesByTwoFourOrJump : Prop :=
  ∀ (i : Instr) (s t : State), exec i s = .next t →
    (endsWithJump i = false → endsWithSkip i = false → t.pc = s.pc + 2) ∧
    (endsWithSkip i = true → t.pc = s.pc + 2 ∨ t.pc = s.pc + 4) ∧
    (endsWithJump i = true → t.pc.toNat < 4096)

/-- `VF` as a flag (R11): an instruction that writes it as a flag leaves 0 or 1 in it; any other leaves it alone unless it names
`V[15]` as its destination. For `x = 15` the order of the writes is the spec's decision D14 (R120, log 5). -/
def Obligations.FlagIsZeroOrOneAndWrittenOnlyByFlagInstructions : Prop :=
  ∀ (i : Instr) (s t : State), exec i s = .next t →
    (writesFlag i = true → t.reg 15#4 = 0 ∨ t.reg 15#4 = 1) ∧
    (writesFlag i = false → writesReg i 15#4 = false → t.reg 15#4 = s.reg 15#4)

/-- The access matrix of the general registers (R27): a register the matrix does not mark W is unchanged; and a register it does not
mark R has no influence: with any other value in it the instruction faults alike, or completes with the same state but for that
register where it is not written. (The wait of `LD Vx, K` is another step: WaitingStepScansKeys.) -/
def Obligations.RegisterAccessMatrix : Prop :=
  ∀ (i : Instr) (r : RegIx) (b : Byte) (s : State),
    (∀ t, exec i s = .next t → writesReg i r = false → t.reg r = s.reg r) ∧
    (readsReg i r = false →
      (∀ t, exec i s = .next t → exec i (s.setReg r b) = .next (if writesReg i r then t else t.setReg r b)) ∧
      (∀ f, exec i s = .fault f → exec i (s.setReg r b) = .fault f))

/-- Which instructions write which other state (10_state.md section 1, column "written by"): every piece of state that is no general
register and not the cursor is left alone by every instruction but the listed ones. That the register dump and load leave `I` alone
is the spec's decision D24, that `RET` leaves the stack slots alone is D26 (log 5). `unknown_out` is not in that table: the event is
D30, its being a field is the model's choice (log 7). -/
def Obligations.OnlyTheListedInstructionsWriteEachState : Prop :=
  ∀ (i : Instr) (s t : State), exec i s = .next t →
    ((∀ nnn, i ≠ .ldIndex nnn) → (∀ x, i ≠ .addIndex x) → (∀ x, i ≠ .ldFont x) → t.idx = s.idx) ∧
    ((∀ nnn, i ≠ .call nnn) → t.stack = s.stack) ∧
    ((∀ nnn, i ≠ .call nnn) → i ≠ .ret → t.sp = s.sp) ∧
    ((∀ x, i ≠ .ldDtReg x) → t.dt = s.dt) ∧
    ((∀ x, i ≠ .ldStReg x) → t.st = s.st) ∧
    t.key = s.key ∧
    ((∀ x, i ≠ .ldRegKey x) → t.wait = s.wait ∧ t.wreg = s.wreg) ∧
    (i ≠ .cls → (∀ x y n, i ≠ .drw x y n) → t.fb = s.fb ∧ t.chg = s.chg) ∧
    ((∀ x, i ≠ .ldBcd x) → (∀ x, i ≠ .storeRegs x) → t.mem = s.mem) ∧
    ((∀ op, i ≠ .unknown op) → t.unknownOut = s.unknownOut)

/-- The random byte reaches nothing but `RND` (R80, R132: a step that does not execute `RND` ignores `rnd_in`): with another byte the
step faults alike, or completes with the same state but for the sampled byte itself, the model's own field (log 2). The byte is an
unconstrained draw by the spec's decision D23 (log 1). -/
def Obligations.RandomByteReachesOnlyRnd : Prop :=
  ∀ (keys : BitVec 16) (a b : Byte) (s : State), (∀ x kk, s.nextInstr ≠ some (.rnd x kk)) →
    (∀ t, stepWith { keys := keys, rnd := a } s = .next t →
      stepWith { keys := keys, rnd := b } s = .next { t with rndIn := b }) ∧
    (∀ f, stepWith { keys := keys, rnd := a } s = .fault f → stepWith { keys := keys, rnd := b } s = .fault f)

/-- A stored instruction is the one fetched next (R50): when `LD [I], Vx` or `LD B, Vx` writes the two bytes at the address after it,
the state it leaves fetches exactly those bytes (the spec's own inference in R50; the byte order is D1, log 14). -/
def Obligations.StoredBytesAreFetchedNext : Prop :=
  (∀ (x : RegIx) (s : State) (k : Nat), s.idx.toNat + x.toNat < 4096 → k + 1 ≤ x.toNat → s.pc.toNat + 2 = s.idx.toNat + k →
    ∃ t, exec (.storeRegs x) s = .next t ∧
      t.fetch = .ok (s.reg (BitVec.ofNat 4 k) ++ s.reg (BitVec.ofNat 4 (k + 1)))) ∧
  (∀ (x : RegIx) (s : State) (k : Nat), s.idx.toNat + 2 < 4096 → k ≤ 1 → s.pc.toNat + 2 = s.idx.toNat + k →
    ∃ t, exec (.ldBcd x) s = .next t ∧
      t.fetch =
        .ok (if k = 0 then bcdHundreds (s.reg x) ++ bcdTens (s.reg x) else bcdTens (s.reg x) ++ bcdUnits (s.reg x)))

/-- `CALL` followed at once by `RET` changes no register, no byte and no pixel, and leaves the cursor right after the `CALL`; the slot
keeps the pushed address (R102's property, §8 of the source; R14, D26). Two steps' timers are outside exec. -/
def Obligations.CallThenReturnIsANoOp : Prop :=
  ∀ (nnn : Addr) (s : State), s.sp.val < 16 → s.pc.toNat + 2 < 4096 →
    ∃ t u, exec (.call nnn) s = .next t ∧ exec .ret t = .next u ∧ u.pc = s.pc + 2 ∧
      (∀ k : Fin 16, k.val = s.sp.val → u.stack[k.val] = s.pc + 2) ∧
      (∀ k : Fin 16, k.val ≠ s.sp.val → u.stack[k.val] = s.stack[k.val]) ∧
      OnlyChanges (.cursor :: (List.finRange 16).map .slot) s u

/-- A register dump and then a load of the same registers at the same `I`, from any registers in between, gives `V[0]` to `V[x]` back
and leaves the registers above `x` as they were before the load (R145's property; `I` unchanged by D24, log 5). -/
def Obligations.DumpThenLoadRestoresRegisters : Prop :=
  ∀ (x : RegIx) (s : State), s.idx.toNat + x.toNat < 4096 →
    ∃ t, exec (.storeRegs x) s = .next t ∧
      ∀ v : Vector Byte 16, ∃ u, exec (.loadRegs x) { t with v := v } = .next u ∧
        (∀ r : RegIx, r ≤ x → u.reg r = s.reg r) ∧
        (∀ r : RegIx, x < r → u.reg r = State.reg { t with v := v } r)

/-- Drawing the same sprite twice at the same place restores every pixel; where the pixels under the sprite's 1 bits were all clear,
the first draw reports no collision and the second reports one exactly when the sprite has a 1 bit (R151's properties; `x` and `y`
other than 15, since the first draw rewrites `VF`; D15, D17, log 5). -/
def Obligations.DrawingTwiceRestoresTheFramebuffer : Prop :=
  ∀ (x y : RegIx) (n : Nibble) (s : State), x ≠ 15#4 → y ≠ 15#4 → (n = 0 ∨ s.idx.toNat + n.toNat ≤ 4096) →
    ∃ t u, exec (.drw x y n) s = .next t ∧ exec (.drw x y n) t = .next u ∧
      (∀ col row, u.pixel col row = s.pixel col row) ∧
      ((∀ col row, SpriteCovers s x y n col row → s.pixel col row = false) →
        t.reg 15#4 = 0 ∧
        ((∃ col row, SpriteCovers s x y n col row) → u.reg 15#4 = 1) ∧
        ((∀ col row, ¬ SpriteCovers s x y n col row) → u.reg 15#4 = 0))

/-! ### Control transfer -/

/-- `JP nnn` (R101): it never faults, and changes nothing but the cursor. -/
def Obligations.JpSetsTheCursor : Prop :=
  ∀ (nnn : Addr) (s : State), ∃ t, exec (.jp nnn) s = .next t ∧ t.pc.toNat = nnn.toNat ∧ OnlyChanges [.cursor] s t

/-- `CALL nnn` (R102; the fault is the spec's decision D7, log 5): with a full stack it faults; otherwise it pushes the address after
itself, unchecked, and jumps. -/
def Obligations.CallPushesAndJumpsOrOverflows : Prop :=
  ∀ (nnn : Addr) (s : State),
    (s.sp.val = 16 → exec (.call nnn) s = .fault .stackOverflow) ∧
    (∀ k : Fin 16, s.sp.val = k.val →
      ∃ t, exec (.call nnn) s = .next t ∧ t.stack[k.val] = s.pc + 2 ∧ t.sp.val = k.val + 1 ∧ t.pc.toNat = nnn.toNat ∧
        OnlyChanges [.slot k, .stackPointer, .cursor] s t)

/-- `RET` (R100; faults by the spec's decisions D8, D11, the slot kept by D26, log 5): an empty stack underflows, tested first; a
popped address of 4096 or more faults; otherwise the cursor is the popped address, `SP` one less, and no slot changes. -/
def Obligations.RetPopsAndJumpsOrFaults : Prop :=
  ∀ s : State,
    (s.sp.val = 0 → exec .ret s = .fault .stackUnderflow) ∧
    (∀ k : Fin 16, s.sp.val = k.val + 1 →
      (4096 ≤ s.stack[k.val].toNat → exec .ret s = .fault (.outOfRange s.stack[k.val].toNat)) ∧
      (s.stack[k.val].toNat < 4096 →
        ∃ t, exec .ret s = .next t ∧ t.pc = s.stack[k.val] ∧ t.sp.val = k.val ∧ OnlyChanges [.stackPointer, .cursor] s t))

/-- `JP V0, nnn` (R107; the fault is the spec's decision D11, log 5): the exact sum, not reduced. -/
def Obligations.JpV0AddsTheOffsetOrFaults : Prop :=
  ∀ (nnn : Addr) (s : State),
    (4096 ≤ (s.reg 0#4).toNat + nnn.toNat →
      exec (.jpV0 nnn) s = .fault (.outOfRange ((s.reg 0#4).toNat + nnn.toNat))) ∧
    ((s.reg 0#4).toNat + nnn.toNat < 4096 →
      ∃ t, exec (.jpV0 nnn) s = .next t ∧ t.pc.toNat = (s.reg 0#4).toNat + nnn.toNat ∧ OnlyChanges [.cursor] s t)

/-- `SE Vx, kk` (R103) and `SNE Vx, kk` (R104). -/
def Obligations.SkipOnImmediate : Prop :=
  ∀ (x : RegIx) (kk : Byte) (s : State),
    (∃ t, exec (.seImm x kk) s = .next t ∧ t.pc = (if s.reg x = kk then s.pc + 4 else s.pc + 2) ∧
      OnlyChanges [.cursor] s t) ∧
    (∃ t, exec (.sneImm x kk) s = .next t ∧ t.pc = (if s.reg x = kk then s.pc + 2 else s.pc + 4) ∧
      OnlyChanges [.cursor] s t)

/-- `SE Vx, Vy` (R105) and `SNE Vx, Vy` (R106), whatever the ignored nibble holds (R66). That the nibble is ignored is the spec's
decision D4 (log 5); that the term keeps it is the model's choice (log 11). -/
def Obligations.SkipOnRegister : Prop :=
  ∀ (x y : RegIx) (ign : Nibble) (s : State),
    (∃ t, exec (.seReg x y ign) s = .next t ∧ t.pc = (if s.reg x = s.reg y then s.pc + 4 else s.pc + 2) ∧
      OnlyChanges [.cursor] s t) ∧
    (∃ t, exec (.sneReg x y ign) s = .next t ∧ t.pc = (if s.reg x = s.reg y then s.pc + 2 else s.pc + 4) ∧
      OnlyChanges [.cursor] s t)

/-! ### Registers and ALU -/

/-- `LD Vx, kk` (R121). -/
def Obligations.LoadImmediate : Prop :=
  ∀ (x : RegIx) (kk : Byte) (s : State),
    ∃ t, exec (.ldImm x kk) s = .next t ∧ t.reg x = kk ∧ t.pc = s.pc + 2 ∧ OnlyChanges [.reg x, .cursor] s t

/-- `ADD Vx, kk` (R122): the sum modulo 256, and no carry flag (for `x` other than 15, `VF` is in the frame). -/
def Obligations.AddImmediateWrapsWithoutFlag : Prop :=
  ∀ (x : RegIx) (kk : Byte) (s : State),
    ∃ t, exec (.addImm x kk) s = .next t ∧ (t.reg x).toNat = ((s.reg x).toNat + kk.toNat) % 256 ∧ t.pc = s.pc + 2 ∧
      OnlyChanges [.reg x, .cursor] s t

/-- `LD Vx, Vy` (R123). -/
def Obligations.CopyRegister : Prop :=
  ∀ (x y : RegIx) (s : State),
    ∃ t, exec (.ldReg x y) s = .next t ∧ t.reg x = s.reg y ∧ t.pc = s.pc + 2 ∧ OnlyChanges [.reg x, .cursor] s t

/-- `OR` (R124), `AND` (R125), `XOR` (R126), bit by bit; no flag. -/
def Obligations.BitwiseOperations : Prop :=
  ∀ (x y : RegIx) (s : State),
    (∃ t, exec (.orReg x y) s = .next t ∧
      (∀ k, k < 8 → (t.reg x).getLsbD k = ((s.reg x).getLsbD k || (s.reg y).getLsbD k)) ∧ t.pc = s.pc + 2 ∧
      OnlyChanges [.reg x, .cursor] s t) ∧
    (∃ t, exec (.andReg x y) s = .next t ∧
      (∀ k, k < 8 → (t.reg x).getLsbD k = ((s.reg x).getLsbD k && (s.reg y).getLsbD k)) ∧ t.pc = s.pc + 2 ∧
      OnlyChanges [.reg x, .cursor] s t) ∧
    (∃ t, exec (.xorReg x y) s = .next t ∧
      (∀ k, k < 8 → (t.reg x).getLsbD k = ((s.reg x).getLsbD k != (s.reg y).getLsbD k)) ∧ t.pc = s.pc + 2 ∧
      OnlyChanges [.reg x, .cursor] s t)

/-- `ADD Vx, Vy` (R127): `VF` is the carry; the sum modulo 256 is in `V[x]`, and lost when `x` is 15 (R120, the spec's decision D14,
log 5). -/
def Obligations.AddRegistersWithCarryOut : Prop :=
  ∀ (x y : RegIx) (s : State),
    ∃ t, exec (.addReg x y) s = .next t ∧
      t.reg 15#4 = (if (s.reg x).toNat + (s.reg y).toNat > 255 then 1 else 0) ∧
      (x ≠ 15#4 → (t.reg x).toNat = ((s.reg x).toNat + (s.reg y).toNat) % 256) ∧
      t.pc = s.pc + 2 ∧ OnlyChanges [.reg x, .reg 15#4, .cursor] s t

/-- `SUB Vx, Vy` (R128) and `SUBN Vx, Vy` (R130): `VF` is 1 iff the minuend is at least the subtrahend; the difference modulo 256 is
in `V[x]`, and lost when `x` is 15 (R120, the spec's decision D14, log 5). -/
def Obligations.SubtractWithNoBorrowFlag : Prop :=
  ∀ (x y : RegIx) (s : State),
    (∃ t, exec (.subReg x y) s = .next t ∧
      t.reg 15#4 = (if (s.reg x).toNat ≥ (s.reg y).toNat then 1 else 0) ∧
      (x ≠ 15#4 → (t.reg x).toNat = ((s.reg x).toNat + 256 - (s.reg y).toNat) % 256) ∧
      t.pc = s.pc + 2 ∧ OnlyChanges [.reg x, .reg 15#4, .cursor] s t) ∧
    (∃ t, exec (.subnReg x y) s = .next t ∧
      t.reg 15#4 = (if (s.reg y).toNat ≥ (s.reg x).toNat then 1 else 0) ∧
      (x ≠ 15#4 → (t.reg x).toNat = ((s.reg y).toNat + 256 - (s.reg x).toNat) % 256) ∧
      t.pc = s.pc + 2 ∧ OnlyChanges [.reg x, .reg 15#4, .cursor] s t)

/-- `SHR Vx` (R129) and `SHL Vx` (R131), whatever the ignored `y` field holds (kept in the term by the model's choice, log 11): by
one place, the bit shifted out in `VF`; the result is lost when `x` is 15 (R120, the spec's decision D14, log 5). -/
def Obligations.ShiftsByOneWithBitOut : Prop :=
  ∀ (x : RegIx) (ign : Nibble) (s : State),
    (∃ t, exec (.shr x ign) s = .next t ∧ (t.reg 15#4).toNat = (s.reg x).toNat % 2 ∧
      (x ≠ 15#4 → (t.reg x).toNat = (s.reg x).toNat / 2) ∧
      t.pc = s.pc + 2 ∧ OnlyChanges [.reg x, .reg 15#4, .cursor] s t) ∧
    (∃ t, exec (.shl x ign) s = .next t ∧ (t.reg 15#4).toNat = (s.reg x).toNat / 128 ∧
      (x ≠ 15#4 → (t.reg x).toNat = 2 * (s.reg x).toNat % 256) ∧
      t.pc = s.pc + 2 ∧ OnlyChanges [.reg x, .reg 15#4, .cursor] s t)

/-- `RND Vx, kk` (R132): exec masks the sampled byte, and a step that executes it masks this step's `rnd_in`, whatever byte that is
(an unconstrained draw by the spec's decision D23; log 1); no bit outside `kk` is set. -/
def Obligations.RndMasksTheRandomByte : Prop :=
  (∀ (x : RegIx) (kk : Byte) (s : State),
    ∃ t, exec (.rnd x kk) s = .next t ∧ t.reg x = (s.rndIn &&& kk) ∧ (t.reg x &&& ~~~kk) = 0 ∧ t.pc = s.pc + 2 ∧
      OnlyChanges [.reg x, .cursor] s t) ∧
  (∀ (x : RegIx) (kk : Byte) (inp : Input) (s : State), s.nextInstr = some (.rnd x kk) →
    ∃ t, stepWith inp s = .next t ∧ t.reg x = (inp.rnd &&& kk))

/-! ### Index register and memory -/

/-- `LD I, nnn` (R140): `VF` untouched. -/
def Obligations.LoadIndex : Prop :=
  ∀ (nnn : Addr) (s : State),
    ∃ t, exec (.ldIndex nnn) s = .next t ∧ t.idx.toNat = nnn.toNat ∧ t.pc = s.pc + 2 ∧ OnlyChanges [.index, .cursor] s t

/-- `ADD I, Vx` (R141; faulting at 4096 is the spec's decision D10, strictness and the 0 case D34, log 5): the flag looks at the old
`I` alone, and is written on every execution that completes. -/
def Obligations.AddIndexOrFaults : Prop :=
  ∀ (x : RegIx) (s : State),
    (4096 ≤ s.idx.toNat + (s.reg x).toNat →
      exec (.addIndex x) s = .fault (.outOfRange (s.idx.toNat + (s.reg x).toNat))) ∧
    (s.idx.toNat + (s.reg x).toNat < 4096 →
      ∃ t, exec (.addIndex x) s = .next t ∧ t.idx.toNat = s.idx.toNat + (s.reg x).toNat ∧
        t.reg 15#4 = (if s.idx.toNat > 0x0F00 then 1 else 0) ∧ t.pc = s.pc + 2 ∧
        OnlyChanges [.index, .reg 15#4, .cursor] s t)

/-- `LD F, Vx` (R142): five times the register, exact; no mask above 15 by the spec's decision D25 (log 5). -/
def Obligations.LoadGlyphAddress : Prop :=
  ∀ (x : RegIx) (s : State),
    ∃ t, exec (.ldFont x) s = .next t ∧ t.idx.toNat = 5 * (s.reg x).toNat ∧ t.pc = s.pc + 2 ∧
      OnlyChanges [.index, .cursor] s t

/-- `LD B, Vx` (R143): with `I` above 4093 it faults and writes nothing; otherwise the three decimal digits, hundreds at `I`, and no
other byte, no register and not `I`. The fault is the spec's decision D9 (log 5). -/
def Obligations.StoreDecimalDigitsOrFaults : Prop :=
  ∀ (x : RegIx) (s : State),
    (4096 ≤ s.idx.toNat + 2 → exec (.ldBcd x) s = .fault (.outOfRange 4096)) ∧
    (s.idx.toNat + 2 < 4096 →
      ∃ t, exec (.ldBcd x) s = .next t ∧
        (t.byteAt (dataAddr s 0)).toNat = (s.reg x).toNat / 100 ∧
        (t.byteAt (dataAddr s 1)).toNat = (s.reg x).toNat / 10 % 10 ∧
        (t.byteAt (dataAddr s 2)).toNat = (s.reg x).toNat % 10 ∧
        t.pc = s.pc + 2 ∧
        OnlyChanges [.byte (dataAddr s 0), .byte (dataAddr s 1), .byte (dataAddr s 2), .cursor] s t)

/-- `LD [I], Vx` (R144; `I` unchanged by the spec's decision D24, the fault by D9, log 5): past the end it faults and writes
nothing; otherwise `V[k]` is at `I + k` for each `k` up to `x`, and nothing else changes. -/
def Obligations.StoreRegistersOrFaults : Prop :=
  ∀ (x : RegIx) (s : State),
    (4096 ≤ s.idx.toNat + x.toNat → exec (.storeRegs x) s = .fault (.outOfRange 4096)) ∧
    (s.idx.toNat + x.toNat < 4096 →
      ∃ t, exec (.storeRegs x) s = .next t ∧
        (∀ r : RegIx, r ≤ x → t.byteAt (dataAddr s r.toNat) = s.reg r) ∧ t.pc = s.pc + 2 ∧
        OnlyChanges (.cursor :: byteParts (dataAddr s 0) (x.toNat + 1)) s t)

/-- `LD Vx, [I]` (R145; `I` unchanged by the spec's decision D24, the fault by D9, log 5): past the end it faults and writes
nothing; otherwise `V[k]` is the byte at `I + k` for each `k` up to `x`, and nothing else changes, memory and the registers above
`x` included. -/
def Obligations.LoadRegistersOrFaults : Prop :=
  ∀ (x : RegIx) (s : State),
    (4096 ≤ s.idx.toNat + x.toNat → exec (.loadRegs x) s = .fault (.outOfRange 4096)) ∧
    (s.idx.toNat + x.toNat < 4096 →
      ∃ t, exec (.loadRegs x) s = .next t ∧
        (∀ r : RegIx, r ≤ x → t.reg r = s.byteAt (s.idx.toNat + r.toNat)) ∧ t.pc = s.pc + 2 ∧
        OnlyChanges (.cursor :: regPartsTo x) s t)

/-! ### Display -/

/-- `CLS` (R150): every pixel 0 and `CHG` true whatever was there; nothing else. -/
def Obligations.ClearScreen : Prop :=
  ∀ s : State,
    ∃ t, exec .cls s = .next t ∧ (∀ col row, t.pixel col row = false) ∧ t.chg = true ∧ t.pc = s.pc + 2 ∧
      OnlyChangesBesidePixels [.changed, .cursor] s t

/-- `DRW Vx, Vy, n` (R151; the spec's decisions D9 and D15 to D18, log 5): past the end of memory it faults and writes nothing;
otherwise the pixels under the sprite's 1 bits, wrapped in each direction on its own, are inverted and no other pixel changes; `VF`
is 1 iff one of them was set; `CHG` is true on every execution, `n = 0` included. -/
def Obligations.DrawSpriteOrFaults : Prop :=
  ∀ (x y : RegIx) (n : Nibble) (s : State),
    (0 < n.toNat → 4096 < s.idx.toNat + n.toNat → exec (.drw x y n) s = .fault (.outOfRange 4096)) ∧
    (n = 0 ∨ s.idx.toNat + n.toNat ≤ 4096 →
      ∃ t, exec (.drw x y n) s = .next t ∧
        (∀ col row, SpriteCovers s x y n col row → t.pixel col row = !s.pixel col row) ∧
        (∀ col row, ¬ SpriteCovers s x y n col row → t.pixel col row = s.pixel col row) ∧
        ((∃ col row, SpriteCovers s x y n col row ∧ s.pixel col row = true) → t.reg 15#4 = 1) ∧
        ((∀ col row, SpriteCovers s x y n col row → s.pixel col row = false) → t.reg 15#4 = 0) ∧
        t.chg = true ∧ t.pc = s.pc + 2 ∧ OnlyChangesBesidePixels [.reg 15#4, .changed, .cursor] s t)

/-- The output `fb_out` in row-major order (R152; the order is the spec's decision D18, log 5). -/
def Obligations.FramebufferOutputIsRowMajor : Prop :=
  ∀ (s : State) (col : Fin 64) (row : Fin 32) (j : Fin 2048), j.val = 64 * row.val + col.val → s.fbOut j = s.pixel col row

/-! ### Timers and keypad -/

/-- `SKP Vx` (R160) and `SKNP Vx` (R161): a key index above 15 faults (the spec's decision D13, log 5); otherwise the skip follows
this step's snapshot, and nothing but the cursor changes. -/
def Obligations.SkipOnKeyOrFaults : Prop :=
  ∀ (x : RegIx) (s : State),
    (15 < (s.reg x).toNat →
      exec (.skp x) s = .fault (.keyIndexOutOfRange (s.reg x)) ∧ exec (.sknp x) s = .fault (.keyIndexOutOfRange (s.reg x))) ∧
    ((s.reg x).toNat ≤ 15 →
      (∃ t, exec (.skp x) s = .next t ∧
        t.pc = (if s.key.getLsbD (s.reg x).toNat = true then s.pc + 4 else s.pc + 2) ∧ OnlyChanges [.cursor] s t) ∧
      (∃ t, exec (.sknp x) s = .next t ∧
        t.pc = (if s.key.getLsbD (s.reg x).toNat = true then s.pc + 2 else s.pc + 4) ∧ OnlyChanges [.cursor] s t))

/-- `LD Vx, DT` (R162): exec reads the timer, and in a step the value read is the timer after that step's own decrement; the read does
not change the timer. -/
def Obligations.ReadDelayTimer : Prop :=
  (∀ (x : RegIx) (s : State),
    ∃ t, exec (.ldRegDt x) s = .next t ∧ t.reg x = s.dt ∧ t.pc = s.pc + 2 ∧ OnlyChanges [.reg x, .cursor] s t) ∧
  (∀ (x : RegIx) (inp : Input) (s : State), s.nextInstr = some (.ldRegDt x) →
    ∃ t, stepWith inp s = .next t ∧ (t.reg x).toNat = s.dt.toNat - 1 ∧ t.dt.toNat = s.dt.toNat - 1)

/-- `LD DT, Vx` (R164) and `LD ST, Vx` (R165): exec writes the timer; in a step the written value replaces this step's decrement, so
the state after the step holds the register's value as it is. -/
def Obligations.WriteTimers : Prop :=
  (∀ (x : RegIx) (s : State),
    (∃ t, exec (.ldDtReg x) s = .next t ∧ t.dt = s.reg x ∧ t.pc = s.pc + 2 ∧ OnlyChanges [.delay, .cursor] s t) ∧
    (∃ t, exec (.ldStReg x) s = .next t ∧ t.st = s.reg x ∧ t.pc = s.pc + 2 ∧ OnlyChanges [.sound, .cursor] s t)) ∧
  (∀ (x : RegIx) (inp next : Input) (s : State),
    (s.nextInstr = some (.ldDtReg x) →
      ∃ t, stepWith inp s = .next t ∧ t.dt = s.reg x ∧
        ∀ u, stepWith next t = .next u → (∀ q, t.nextInstr ≠ some (.ldDtReg q)) → u.dt.toNat = (s.reg x).toNat - 1) ∧
    (s.nextInstr = some (.ldStReg x) →
      ∃ t, stepWith inp s = .next t ∧ t.st = s.reg x ∧
        ∀ u, stepWith next t = .next u → (∀ q, t.nextInstr ≠ some (.ldStReg q)) → u.st.toNat = (s.reg x).toNat - 1))

/-- `LD Vx, K` (R163): it enters the wait for `x` with the cursor already past it, looks at no key and writes no register; a key held
from before counts in the first waiting step (the spec's decision D21, log 5). -/
def Obligations.KeyReadBeginsTheWait : Prop :=
  (∀ (x : RegIx) (s : State),
    ∃ t, exec (.ldRegKey x) s = .next t ∧ t.wait = true ∧ t.wreg = x ∧ t.pc = s.pc + 2 ∧
      OnlyChanges [.waiting, .waitTarget, .cursor] s t) ∧
  (∀ (x : RegIx) (inp next : Input) (s : State) (k : Nat), s.nextInstr = some (.ldRegKey x) →
    k < 16 → next.keys.getLsbD k = true → (∀ j, j < k → next.keys.getLsbD j = false) →
      ∃ t u, stepWith inp s = .next t ∧ stepWith next t = .next u ∧ (u.reg x).toNat = k ∧ u.wait = false ∧ u.pc = s.pc + 2)

/-! ### UNKNOWN -/

/-- `UNKNOWN` (R90): the word on `unknown_out` and an advance, for any word; that the event is an output and not stored beyond its
step is the spec's decision D30 (log 5, log 7). -/
def Obligations.UnknownIsRecordedAndSkipped : Prop :=
  ∀ (op : Word) (s : State),
    ∃ t, exec (.unknown op) s = .next t ∧ t.unknownOut = some op ∧ t.pc = s.pc + 2 ∧ OnlyChanges [.unknownOut, .cursor] s t
end

