-- ==== Sys2Proof/Laws/Decode.lean ====
section
/-! SUPPORT. Fields of a packed word, and every word as a packed word (spec/30_encoding.md R61, R69): what proofs about encoding cite instead of unfolding bit slices. -/

namespace Sys2Proof

@[simp] theorem fieldH_pack (h : Nibble) (x y : RegIx) (n : Nibble) : fieldH (pack h x y n) = h := by
  apply BitVec.eq_of_getLsbD_eq; intro i hi
  interval_cases i <;> simp only [fieldH, pack, BitVec.getLsbD_extractLsb', BitVec.getLsbD_append] <;> simp

@[simp] theorem fieldX_pack (h : Nibble) (x y : RegIx) (n : Nibble) : fieldX (pack h x y n) = x := by
  apply BitVec.eq_of_getLsbD_eq; intro i hi
  interval_cases i <;> simp only [fieldX, pack, BitVec.getLsbD_extractLsb', BitVec.getLsbD_append] <;> simp

@[simp] theorem fieldY_pack (h : Nibble) (x y : RegIx) (n : Nibble) : fieldY (pack h x y n) = y := by
  apply BitVec.eq_of_getLsbD_eq; intro i hi
  interval_cases i <;> simp only [fieldY, pack, BitVec.getLsbD_extractLsb', BitVec.getLsbD_append] <;> simp

@[simp] theorem fieldN_pack (h : Nibble) (x y : RegIx) (n : Nibble) : fieldN (pack h x y n) = n := by
  apply BitVec.eq_of_getLsbD_eq; intro i hi
  interval_cases i <;> simp only [fieldN, pack, BitVec.getLsbD_extractLsb', BitVec.getLsbD_append] <;> simp

@[simp] theorem fieldH_packXKK (h : Nibble) (x : RegIx) (kk : Byte) : fieldH (packXKK h x kk) = h := by
  apply BitVec.eq_of_getLsbD_eq; intro i hi
  interval_cases i <;> simp only [fieldH, packXKK, BitVec.getLsbD_extractLsb', BitVec.getLsbD_append] <;> simp

@[simp] theorem fieldX_packXKK (h : Nibble) (x : RegIx) (kk : Byte) : fieldX (packXKK h x kk) = x := by
  apply BitVec.eq_of_getLsbD_eq; intro i hi
  interval_cases i <;> simp only [fieldX, packXKK, BitVec.getLsbD_extractLsb', BitVec.getLsbD_append] <;> simp

@[simp] theorem fieldKK_packXKK (h : Nibble) (x : RegIx) (kk : Byte) : fieldKK (packXKK h x kk) = kk := by
  apply BitVec.eq_of_getLsbD_eq; intro i hi
  interval_cases i <;> simp only [fieldKK, packXKK, BitVec.getLsbD_extractLsb', BitVec.getLsbD_append] <;> simp

@[simp] theorem fieldH_packNNN (h : Nibble) (nnn : Addr) : fieldH (packNNN h nnn) = h := by
  apply BitVec.eq_of_getLsbD_eq; intro i hi
  interval_cases i <;> simp only [fieldH, packNNN, BitVec.getLsbD_extractLsb', BitVec.getLsbD_append] <;> simp

@[simp] theorem fieldNNN_packNNN (h : Nibble) (nnn : Addr) : fieldNNN (packNNN h nnn) = nnn := by
  apply BitVec.eq_of_getLsbD_eq; intro i hi
  interval_cases i <;> simp only [fieldNNN, packNNN, BitVec.getLsbD_extractLsb', BitVec.getLsbD_append] <;> simp

/-- Every word is its four nibbles (R61, R63: one nibble tuple per word). -/
theorem word_eq_pack (op : Word) : op = pack (fieldH op) (fieldX op) (fieldY op) (fieldN op) := by
  apply BitVec.eq_of_getLsbD_eq; intro i hi
  interval_cases i <;> simp only [fieldH, fieldX, fieldY, fieldN, pack, BitVec.getLsbD_extractLsb', BitVec.getLsbD_append] <;> simp

/-- Every word is its high nibble, its `x` and its `kk` (R61). -/
theorem word_eq_packXKK (op : Word) : op = packXKK (fieldH op) (fieldX op) (fieldKK op) := by
  apply BitVec.eq_of_getLsbD_eq; intro i hi
  interval_cases i <;> simp only [fieldH, fieldX, fieldKK, packXKK, BitVec.getLsbD_extractLsb', BitVec.getLsbD_append] <;> simp

/-- Every word is its high nibble and its `nnn` (R61). -/
theorem word_eq_packNNN (op : Word) : op = packNNN (fieldH op) (fieldNNN op) := by
  apply BitVec.eq_of_getLsbD_eq; intro i hi
  interval_cases i <;> simp only [fieldH, fieldNNN, packNNN, BitVec.getLsbD_extractLsb', BitVec.getLsbD_append] <;> simp

/-- A word laid out as memory holds it is read back whole (R43). -/
theorem wordOfBytes_bytes (op : Word) : wordOfBytes (op.extractLsb' 8 8) (op.extractLsb' 0 8) = op := by
  apply BitVec.eq_of_getLsbD_eq; intro i hi
  interval_cases i <;> simp only [wordOfBytes, BitVec.getLsbD_extractLsb', BitVec.getLsbD_append] <;> simp

end Sys2Proof
end

