-- ==== Sys2Proof/Laws/State.lean ====
section
/-! SUPPORT. What each update of the state does to each field: one lemma per field per update, so that no later proof unfolds a record update. -/

namespace Sys2Proof.Machine

/-! ### `setReg` -/

@[simp] theorem State.setReg_v (s : State) (r : RegIx) (b : Byte) : (s.setReg r b).v = s.v.set r.toNat b r.isLt := rfl
@[simp] theorem State.setReg_idx (s : State) (r : RegIx) (b : Byte) : (s.setReg r b).idx = s.idx := rfl
@[simp] theorem State.setReg_pc (s : State) (r : RegIx) (b : Byte) : (s.setReg r b).pc = s.pc := rfl
@[simp] theorem State.setReg_stack (s : State) (r : RegIx) (b : Byte) : (s.setReg r b).stack = s.stack := rfl
@[simp] theorem State.setReg_sp (s : State) (r : RegIx) (b : Byte) : (s.setReg r b).sp = s.sp := rfl
@[simp] theorem State.setReg_dt (s : State) (r : RegIx) (b : Byte) : (s.setReg r b).dt = s.dt := rfl
@[simp] theorem State.setReg_st (s : State) (r : RegIx) (b : Byte) : (s.setReg r b).st = s.st := rfl
@[simp] theorem State.setReg_key (s : State) (r : RegIx) (b : Byte) : (s.setReg r b).key = s.key := rfl
@[simp] theorem State.setReg_wait (s : State) (r : RegIx) (b : Byte) : (s.setReg r b).wait = s.wait := rfl
@[simp] theorem State.setReg_wreg (s : State) (r : RegIx) (b : Byte) : (s.setReg r b).wreg = s.wreg := rfl
@[simp] theorem State.setReg_fb (s : State) (r : RegIx) (b : Byte) : (s.setReg r b).fb = s.fb := rfl
@[simp] theorem State.setReg_chg (s : State) (r : RegIx) (b : Byte) : (s.setReg r b).chg = s.chg := rfl
@[simp] theorem State.setReg_mem (s : State) (r : RegIx) (b : Byte) : (s.setReg r b).mem = s.mem := rfl
@[simp] theorem State.setReg_unknownOut (s : State) (r : RegIx) (b : Byte) : (s.setReg r b).unknownOut = s.unknownOut := rfl
@[simp] theorem State.setReg_rndIn (s : State) (r : RegIx) (b : Byte) : (s.setReg r b).rndIn = s.rndIn := rfl
@[simp] theorem State.setReg_inputs (s : State) (r : RegIx) (b : Byte) : (s.setReg r b).inputs = s.inputs := rfl
@[simp] theorem State.setReg_tick (s : State) (r : RegIx) (b : Byte) : (s.setReg r b).tick = s.tick := rfl
@[simp] theorem State.setReg_byteAt (s : State) (r : RegIx) (b : Byte) (a : Nat) : (s.setReg r b).byteAt a = s.byteAt a := rfl
@[simp] theorem State.setReg_pixel (s : State) (r : RegIx) (b : Byte) (col : Fin 64) (row : Fin 32) : (s.setReg r b).pixel col row = s.pixel col row := rfl
@[simp] theorem State.setReg_top (s : State) (r : RegIx) (b : Byte) : (s.setReg r b).top = s.top := rfl

/-! ### `setIdx` -/

@[simp] theorem State.setIdx_v (s : State) (w : Word) : (s.setIdx w).v = s.v := rfl
@[simp] theorem State.setIdx_idx (s : State) (w : Word) : (s.setIdx w).idx = w := rfl
@[simp] theorem State.setIdx_pc (s : State) (w : Word) : (s.setIdx w).pc = s.pc := rfl
@[simp] theorem State.setIdx_stack (s : State) (w : Word) : (s.setIdx w).stack = s.stack := rfl
@[simp] theorem State.setIdx_sp (s : State) (w : Word) : (s.setIdx w).sp = s.sp := rfl
@[simp] theorem State.setIdx_dt (s : State) (w : Word) : (s.setIdx w).dt = s.dt := rfl
@[simp] theorem State.setIdx_st (s : State) (w : Word) : (s.setIdx w).st = s.st := rfl
@[simp] theorem State.setIdx_key (s : State) (w : Word) : (s.setIdx w).key = s.key := rfl
@[simp] theorem State.setIdx_wait (s : State) (w : Word) : (s.setIdx w).wait = s.wait := rfl
@[simp] theorem State.setIdx_wreg (s : State) (w : Word) : (s.setIdx w).wreg = s.wreg := rfl
@[simp] theorem State.setIdx_fb (s : State) (w : Word) : (s.setIdx w).fb = s.fb := rfl
@[simp] theorem State.setIdx_chg (s : State) (w : Word) : (s.setIdx w).chg = s.chg := rfl
@[simp] theorem State.setIdx_mem (s : State) (w : Word) : (s.setIdx w).mem = s.mem := rfl
@[simp] theorem State.setIdx_unknownOut (s : State) (w : Word) : (s.setIdx w).unknownOut = s.unknownOut := rfl
@[simp] theorem State.setIdx_rndIn (s : State) (w : Word) : (s.setIdx w).rndIn = s.rndIn := rfl
@[simp] theorem State.setIdx_inputs (s : State) (w : Word) : (s.setIdx w).inputs = s.inputs := rfl
@[simp] theorem State.setIdx_tick (s : State) (w : Word) : (s.setIdx w).tick = s.tick := rfl
@[simp] theorem State.setIdx_reg (s : State) (w : Word) (q : RegIx) : (s.setIdx w).reg q = s.reg q := rfl
@[simp] theorem State.setIdx_byteAt (s : State) (w : Word) (a : Nat) : (s.setIdx w).byteAt a = s.byteAt a := rfl
@[simp] theorem State.setIdx_pixel (s : State) (w : Word) (col : Fin 64) (row : Fin 32) : (s.setIdx w).pixel col row = s.pixel col row := rfl
@[simp] theorem State.setIdx_top (s : State) (w : Word) : (s.setIdx w).top = s.top := rfl

/-! ### `setDt` -/

@[simp] theorem State.setDt_v (s : State) (b : Byte) : (s.setDt b).v = s.v := rfl
@[simp] theorem State.setDt_idx (s : State) (b : Byte) : (s.setDt b).idx = s.idx := rfl
@[simp] theorem State.setDt_pc (s : State) (b : Byte) : (s.setDt b).pc = s.pc := rfl
@[simp] theorem State.setDt_stack (s : State) (b : Byte) : (s.setDt b).stack = s.stack := rfl
@[simp] theorem State.setDt_sp (s : State) (b : Byte) : (s.setDt b).sp = s.sp := rfl
@[simp] theorem State.setDt_dt (s : State) (b : Byte) : (s.setDt b).dt = b := rfl
@[simp] theorem State.setDt_st (s : State) (b : Byte) : (s.setDt b).st = s.st := rfl
@[simp] theorem State.setDt_key (s : State) (b : Byte) : (s.setDt b).key = s.key := rfl
@[simp] theorem State.setDt_wait (s : State) (b : Byte) : (s.setDt b).wait = s.wait := rfl
@[simp] theorem State.setDt_wreg (s : State) (b : Byte) : (s.setDt b).wreg = s.wreg := rfl
@[simp] theorem State.setDt_fb (s : State) (b : Byte) : (s.setDt b).fb = s.fb := rfl
@[simp] theorem State.setDt_chg (s : State) (b : Byte) : (s.setDt b).chg = s.chg := rfl
@[simp] theorem State.setDt_mem (s : State) (b : Byte) : (s.setDt b).mem = s.mem := rfl
@[simp] theorem State.setDt_unknownOut (s : State) (b : Byte) : (s.setDt b).unknownOut = s.unknownOut := rfl
@[simp] theorem State.setDt_rndIn (s : State) (b : Byte) : (s.setDt b).rndIn = s.rndIn := rfl
@[simp] theorem State.setDt_inputs (s : State) (b : Byte) : (s.setDt b).inputs = s.inputs := rfl
@[simp] theorem State.setDt_tick (s : State) (b : Byte) : (s.setDt b).tick = s.tick := rfl
@[simp] theorem State.setDt_reg (s : State) (b : Byte) (q : RegIx) : (s.setDt b).reg q = s.reg q := rfl
@[simp] theorem State.setDt_byteAt (s : State) (b : Byte) (a : Nat) : (s.setDt b).byteAt a = s.byteAt a := rfl
@[simp] theorem State.setDt_pixel (s : State) (b : Byte) (col : Fin 64) (row : Fin 32) : (s.setDt b).pixel col row = s.pixel col row := rfl
@[simp] theorem State.setDt_top (s : State) (b : Byte) : (s.setDt b).top = s.top := rfl

/-! ### `setSt` -/

@[simp] theorem State.setSt_v (s : State) (b : Byte) : (s.setSt b).v = s.v := rfl
@[simp] theorem State.setSt_idx (s : State) (b : Byte) : (s.setSt b).idx = s.idx := rfl
@[simp] theorem State.setSt_pc (s : State) (b : Byte) : (s.setSt b).pc = s.pc := rfl
@[simp] theorem State.setSt_stack (s : State) (b : Byte) : (s.setSt b).stack = s.stack := rfl
@[simp] theorem State.setSt_sp (s : State) (b : Byte) : (s.setSt b).sp = s.sp := rfl
@[simp] theorem State.setSt_dt (s : State) (b : Byte) : (s.setSt b).dt = s.dt := rfl
@[simp] theorem State.setSt_st (s : State) (b : Byte) : (s.setSt b).st = b := rfl
@[simp] theorem State.setSt_key (s : State) (b : Byte) : (s.setSt b).key = s.key := rfl
@[simp] theorem State.setSt_wait (s : State) (b : Byte) : (s.setSt b).wait = s.wait := rfl
@[simp] theorem State.setSt_wreg (s : State) (b : Byte) : (s.setSt b).wreg = s.wreg := rfl
@[simp] theorem State.setSt_fb (s : State) (b : Byte) : (s.setSt b).fb = s.fb := rfl
@[simp] theorem State.setSt_chg (s : State) (b : Byte) : (s.setSt b).chg = s.chg := rfl
@[simp] theorem State.setSt_mem (s : State) (b : Byte) : (s.setSt b).mem = s.mem := rfl
@[simp] theorem State.setSt_unknownOut (s : State) (b : Byte) : (s.setSt b).unknownOut = s.unknownOut := rfl
@[simp] theorem State.setSt_rndIn (s : State) (b : Byte) : (s.setSt b).rndIn = s.rndIn := rfl
@[simp] theorem State.setSt_inputs (s : State) (b : Byte) : (s.setSt b).inputs = s.inputs := rfl
@[simp] theorem State.setSt_tick (s : State) (b : Byte) : (s.setSt b).tick = s.tick := rfl
@[simp] theorem State.setSt_reg (s : State) (b : Byte) (q : RegIx) : (s.setSt b).reg q = s.reg q := rfl
@[simp] theorem State.setSt_byteAt (s : State) (b : Byte) (a : Nat) : (s.setSt b).byteAt a = s.byteAt a := rfl
@[simp] theorem State.setSt_pixel (s : State) (b : Byte) (col : Fin 64) (row : Fin 32) : (s.setSt b).pixel col row = s.pixel col row := rfl
@[simp] theorem State.setSt_top (s : State) (b : Byte) : (s.setSt b).top = s.top := rfl

/-! ### `setMem` -/

@[simp] theorem State.setMem_v (s : State) (m : Memory) : (s.setMem m).v = s.v := rfl
@[simp] theorem State.setMem_idx (s : State) (m : Memory) : (s.setMem m).idx = s.idx := rfl
@[simp] theorem State.setMem_pc (s : State) (m : Memory) : (s.setMem m).pc = s.pc := rfl
@[simp] theorem State.setMem_stack (s : State) (m : Memory) : (s.setMem m).stack = s.stack := rfl
@[simp] theorem State.setMem_sp (s : State) (m : Memory) : (s.setMem m).sp = s.sp := rfl
@[simp] theorem State.setMem_dt (s : State) (m : Memory) : (s.setMem m).dt = s.dt := rfl
@[simp] theorem State.setMem_st (s : State) (m : Memory) : (s.setMem m).st = s.st := rfl
@[simp] theorem State.setMem_key (s : State) (m : Memory) : (s.setMem m).key = s.key := rfl
@[simp] theorem State.setMem_wait (s : State) (m : Memory) : (s.setMem m).wait = s.wait := rfl
@[simp] theorem State.setMem_wreg (s : State) (m : Memory) : (s.setMem m).wreg = s.wreg := rfl
@[simp] theorem State.setMem_fb (s : State) (m : Memory) : (s.setMem m).fb = s.fb := rfl
@[simp] theorem State.setMem_chg (s : State) (m : Memory) : (s.setMem m).chg = s.chg := rfl
@[simp] theorem State.setMem_mem (s : State) (m : Memory) : (s.setMem m).mem = m := rfl
@[simp] theorem State.setMem_unknownOut (s : State) (m : Memory) : (s.setMem m).unknownOut = s.unknownOut := rfl
@[simp] theorem State.setMem_rndIn (s : State) (m : Memory) : (s.setMem m).rndIn = s.rndIn := rfl
@[simp] theorem State.setMem_inputs (s : State) (m : Memory) : (s.setMem m).inputs = s.inputs := rfl
@[simp] theorem State.setMem_tick (s : State) (m : Memory) : (s.setMem m).tick = s.tick := rfl
@[simp] theorem State.setMem_reg (s : State) (m : Memory) (q : RegIx) : (s.setMem m).reg q = s.reg q := rfl
@[simp] theorem State.setMem_pixel (s : State) (m : Memory) (col : Fin 64) (row : Fin 32) : (s.setMem m).pixel col row = s.pixel col row := rfl
@[simp] theorem State.setMem_top (s : State) (m : Memory) : (s.setMem m).top = s.top := rfl

/-! ### `setFb` -/

@[simp] theorem State.setFb_v (s : State) (f : Frame) : (s.setFb f).v = s.v := rfl
@[simp] theorem State.setFb_idx (s : State) (f : Frame) : (s.setFb f).idx = s.idx := rfl
@[simp] theorem State.setFb_pc (s : State) (f : Frame) : (s.setFb f).pc = s.pc := rfl
@[simp] theorem State.setFb_stack (s : State) (f : Frame) : (s.setFb f).stack = s.stack := rfl
@[simp] theorem State.setFb_sp (s : State) (f : Frame) : (s.setFb f).sp = s.sp := rfl
@[simp] theorem State.setFb_dt (s : State) (f : Frame) : (s.setFb f).dt = s.dt := rfl
@[simp] theorem State.setFb_st (s : State) (f : Frame) : (s.setFb f).st = s.st := rfl
@[simp] theorem State.setFb_key (s : State) (f : Frame) : (s.setFb f).key = s.key := rfl
@[simp] theorem State.setFb_wait (s : State) (f : Frame) : (s.setFb f).wait = s.wait := rfl
@[simp] theorem State.setFb_wreg (s : State) (f : Frame) : (s.setFb f).wreg = s.wreg := rfl
@[simp] theorem State.setFb_fb (s : State) (f : Frame) : (s.setFb f).fb = f := rfl
@[simp] theorem State.setFb_chg (s : State) (f : Frame) : (s.setFb f).chg = true := rfl
@[simp] theorem State.setFb_mem (s : State) (f : Frame) : (s.setFb f).mem = s.mem := rfl
@[simp] theorem State.setFb_unknownOut (s : State) (f : Frame) : (s.setFb f).unknownOut = s.unknownOut := rfl
@[simp] theorem State.setFb_rndIn (s : State) (f : Frame) : (s.setFb f).rndIn = s.rndIn := rfl
@[simp] theorem State.setFb_inputs (s : State) (f : Frame) : (s.setFb f).inputs = s.inputs := rfl
@[simp] theorem State.setFb_tick (s : State) (f : Frame) : (s.setFb f).tick = s.tick := rfl
@[simp] theorem State.setFb_reg (s : State) (f : Frame) (q : RegIx) : (s.setFb f).reg q = s.reg q := rfl
@[simp] theorem State.setFb_byteAt (s : State) (f : Frame) (a : Nat) : (s.setFb f).byteAt a = s.byteAt a := rfl
@[simp] theorem State.setFb_top (s : State) (f : Frame) : (s.setFb f).top = s.top := rfl

/-! ### `beginWait` -/

@[simp] theorem State.beginWait_v (s : State) (r : RegIx) : (s.beginWait r).v = s.v := rfl
@[simp] theorem State.beginWait_idx (s : State) (r : RegIx) : (s.beginWait r).idx = s.idx := rfl
@[simp] theorem State.beginWait_pc (s : State) (r : RegIx) : (s.beginWait r).pc = s.pc := rfl
@[simp] theorem State.beginWait_stack (s : State) (r : RegIx) : (s.beginWait r).stack = s.stack := rfl
@[simp] theorem State.beginWait_sp (s : State) (r : RegIx) : (s.beginWait r).sp = s.sp := rfl
@[simp] theorem State.beginWait_dt (s : State) (r : RegIx) : (s.beginWait r).dt = s.dt := rfl
@[simp] theorem State.beginWait_st (s : State) (r : RegIx) : (s.beginWait r).st = s.st := rfl
@[simp] theorem State.beginWait_key (s : State) (r : RegIx) : (s.beginWait r).key = s.key := rfl
@[simp] theorem State.beginWait_wait (s : State) (r : RegIx) : (s.beginWait r).wait = true := rfl
@[simp] theorem State.beginWait_wreg (s : State) (r : RegIx) : (s.beginWait r).wreg = r := rfl
@[simp] theorem State.beginWait_fb (s : State) (r : RegIx) : (s.beginWait r).fb = s.fb := rfl
@[simp] theorem State.beginWait_chg (s : State) (r : RegIx) : (s.beginWait r).chg = s.chg := rfl
@[simp] theorem State.beginWait_mem (s : State) (r : RegIx) : (s.beginWait r).mem = s.mem := rfl
@[simp] theorem State.beginWait_unknownOut (s : State) (r : RegIx) : (s.beginWait r).unknownOut = s.unknownOut := rfl
@[simp] theorem State.beginWait_rndIn (s : State) (r : RegIx) : (s.beginWait r).rndIn = s.rndIn := rfl
@[simp] theorem State.beginWait_inputs (s : State) (r : RegIx) : (s.beginWait r).inputs = s.inputs := rfl
@[simp] theorem State.beginWait_tick (s : State) (r : RegIx) : (s.beginWait r).tick = s.tick := rfl
@[simp] theorem State.beginWait_reg (s : State) (r : RegIx) (q : RegIx) : (s.beginWait r).reg q = s.reg q := rfl
@[simp] theorem State.beginWait_byteAt (s : State) (r : RegIx) (a : Nat) : (s.beginWait r).byteAt a = s.byteAt a := rfl
@[simp] theorem State.beginWait_pixel (s : State) (r : RegIx) (col : Fin 64) (row : Fin 32) : (s.beginWait r).pixel col row = s.pixel col row := rfl
@[simp] theorem State.beginWait_top (s : State) (r : RegIx) : (s.beginWait r).top = s.top := rfl

/-! ### `endWait` -/

@[simp] theorem State.endWait_v (s : State) : (s.endWait).v = s.v := rfl
@[simp] theorem State.endWait_idx (s : State) : (s.endWait).idx = s.idx := rfl
@[simp] theorem State.endWait_pc (s : State) : (s.endWait).pc = s.pc := rfl
@[simp] theorem State.endWait_stack (s : State) : (s.endWait).stack = s.stack := rfl
@[simp] theorem State.endWait_sp (s : State) : (s.endWait).sp = s.sp := rfl
@[simp] theorem State.endWait_dt (s : State) : (s.endWait).dt = s.dt := rfl
@[simp] theorem State.endWait_st (s : State) : (s.endWait).st = s.st := rfl
@[simp] theorem State.endWait_key (s : State) : (s.endWait).key = s.key := rfl
@[simp] theorem State.endWait_wait (s : State) : (s.endWait).wait = false := rfl
@[simp] theorem State.endWait_wreg (s : State) : (s.endWait).wreg = s.wreg := rfl
@[simp] theorem State.endWait_fb (s : State) : (s.endWait).fb = s.fb := rfl
@[simp] theorem State.endWait_chg (s : State) : (s.endWait).chg = s.chg := rfl
@[simp] theorem State.endWait_mem (s : State) : (s.endWait).mem = s.mem := rfl
@[simp] theorem State.endWait_unknownOut (s : State) : (s.endWait).unknownOut = s.unknownOut := rfl
@[simp] theorem State.endWait_rndIn (s : State) : (s.endWait).rndIn = s.rndIn := rfl
@[simp] theorem State.endWait_inputs (s : State) : (s.endWait).inputs = s.inputs := rfl
@[simp] theorem State.endWait_tick (s : State) : (s.endWait).tick = s.tick := rfl
@[simp] theorem State.endWait_reg (s : State) (q : RegIx) : (s.endWait).reg q = s.reg q := rfl
@[simp] theorem State.endWait_byteAt (s : State) (a : Nat) : (s.endWait).byteAt a = s.byteAt a := rfl
@[simp] theorem State.endWait_pixel (s : State) (col : Fin 64) (row : Fin 32) : (s.endWait).pixel col row = s.pixel col row := rfl
@[simp] theorem State.endWait_top (s : State) : (s.endWait).top = s.top := rfl

/-! ### `emitUnknown` -/

@[simp] theorem State.emitUnknown_v (s : State) (op : Word) : (s.emitUnknown op).v = s.v := rfl
@[simp] theorem State.emitUnknown_idx (s : State) (op : Word) : (s.emitUnknown op).idx = s.idx := rfl
@[simp] theorem State.emitUnknown_pc (s : State) (op : Word) : (s.emitUnknown op).pc = s.pc := rfl
@[simp] theorem State.emitUnknown_stack (s : State) (op : Word) : (s.emitUnknown op).stack = s.stack := rfl
@[simp] theorem State.emitUnknown_sp (s : State) (op : Word) : (s.emitUnknown op).sp = s.sp := rfl
@[simp] theorem State.emitUnknown_dt (s : State) (op : Word) : (s.emitUnknown op).dt = s.dt := rfl
@[simp] theorem State.emitUnknown_st (s : State) (op : Word) : (s.emitUnknown op).st = s.st := rfl
@[simp] theorem State.emitUnknown_key (s : State) (op : Word) : (s.emitUnknown op).key = s.key := rfl
@[simp] theorem State.emitUnknown_wait (s : State) (op : Word) : (s.emitUnknown op).wait = s.wait := rfl
@[simp] theorem State.emitUnknown_wreg (s : State) (op : Word) : (s.emitUnknown op).wreg = s.wreg := rfl
@[simp] theorem State.emitUnknown_fb (s : State) (op : Word) : (s.emitUnknown op).fb = s.fb := rfl
@[simp] theorem State.emitUnknown_chg (s : State) (op : Word) : (s.emitUnknown op).chg = s.chg := rfl
@[simp] theorem State.emitUnknown_mem (s : State) (op : Word) : (s.emitUnknown op).mem = s.mem := rfl
@[simp] theorem State.emitUnknown_unknownOut (s : State) (op : Word) : (s.emitUnknown op).unknownOut = some op := rfl
@[simp] theorem State.emitUnknown_rndIn (s : State) (op : Word) : (s.emitUnknown op).rndIn = s.rndIn := rfl
@[simp] theorem State.emitUnknown_inputs (s : State) (op : Word) : (s.emitUnknown op).inputs = s.inputs := rfl
@[simp] theorem State.emitUnknown_tick (s : State) (op : Word) : (s.emitUnknown op).tick = s.tick := rfl
@[simp] theorem State.emitUnknown_reg (s : State) (op : Word) (q : RegIx) : (s.emitUnknown op).reg q = s.reg q := rfl
@[simp] theorem State.emitUnknown_byteAt (s : State) (op : Word) (a : Nat) : (s.emitUnknown op).byteAt a = s.byteAt a := rfl
@[simp] theorem State.emitUnknown_pixel (s : State) (op : Word) (col : Fin 64) (row : Fin 32) : (s.emitUnknown op).pixel col row = s.pixel col row := rfl
@[simp] theorem State.emitUnknown_top (s : State) (op : Word) : (s.emitUnknown op).top = s.top := rfl

/-! ### `tickTimers` -/

@[simp] theorem State.tickTimers_v (s : State) : (s.tickTimers).v = s.v := rfl
@[simp] theorem State.tickTimers_idx (s : State) : (s.tickTimers).idx = s.idx := rfl
@[simp] theorem State.tickTimers_pc (s : State) : (s.tickTimers).pc = s.pc := rfl
@[simp] theorem State.tickTimers_stack (s : State) : (s.tickTimers).stack = s.stack := rfl
@[simp] theorem State.tickTimers_sp (s : State) : (s.tickTimers).sp = s.sp := rfl
@[simp] theorem State.tickTimers_dt (s : State) : (s.tickTimers).dt = countDown s.dt := rfl
@[simp] theorem State.tickTimers_st (s : State) : (s.tickTimers).st = countDown s.st := rfl
@[simp] theorem State.tickTimers_key (s : State) : (s.tickTimers).key = s.key := rfl
@[simp] theorem State.tickTimers_wait (s : State) : (s.tickTimers).wait = s.wait := rfl
@[simp] theorem State.tickTimers_wreg (s : State) : (s.tickTimers).wreg = s.wreg := rfl
@[simp] theorem State.tickTimers_fb (s : State) : (s.tickTimers).fb = s.fb := rfl
@[simp] theorem State.tickTimers_chg (s : State) : (s.tickTimers).chg = s.chg := rfl
@[simp] theorem State.tickTimers_mem (s : State) : (s.tickTimers).mem = s.mem := rfl
@[simp] theorem State.tickTimers_unknownOut (s : State) : (s.tickTimers).unknownOut = s.unknownOut := rfl
@[simp] theorem State.tickTimers_rndIn (s : State) : (s.tickTimers).rndIn = s.rndIn := rfl
@[simp] theorem State.tickTimers_inputs (s : State) : (s.tickTimers).inputs = s.inputs := rfl
@[simp] theorem State.tickTimers_tick (s : State) : (s.tickTimers).tick = s.tick := rfl
@[simp] theorem State.tickTimers_reg (s : State) (q : RegIx) : (s.tickTimers).reg q = s.reg q := rfl
@[simp] theorem State.tickTimers_byteAt (s : State) (a : Nat) : (s.tickTimers).byteAt a = s.byteAt a := rfl
@[simp] theorem State.tickTimers_pixel (s : State) (col : Fin 64) (row : Fin 32) : (s.tickTimers).pixel col row = s.pixel col row := rfl
@[simp] theorem State.tickTimers_top (s : State) : (s.tickTimers).top = s.top := rfl

/-! ### `push` -/

@[simp] theorem State.push_v (s : State) (w : Word) (h : s.sp.val < 16) : (s.push w h).v = s.v := rfl
@[simp] theorem State.push_idx (s : State) (w : Word) (h : s.sp.val < 16) : (s.push w h).idx = s.idx := rfl
@[simp] theorem State.push_pc (s : State) (w : Word) (h : s.sp.val < 16) : (s.push w h).pc = s.pc := rfl
@[simp] theorem State.push_stack (s : State) (w : Word) (h : s.sp.val < 16) : (s.push w h).stack = s.stack.set s.sp.val w h := rfl
@[simp] theorem State.push_sp (s : State) (w : Word) (h : s.sp.val < 16) : (s.push w h).sp = ⟨s.sp.val + 1, Nat.succ_lt_succ h⟩ := rfl
@[simp] theorem State.push_dt (s : State) (w : Word) (h : s.sp.val < 16) : (s.push w h).dt = s.dt := rfl
@[simp] theorem State.push_st (s : State) (w : Word) (h : s.sp.val < 16) : (s.push w h).st = s.st := rfl
@[simp] theorem State.push_key (s : State) (w : Word) (h : s.sp.val < 16) : (s.push w h).key = s.key := rfl
@[simp] theorem State.push_wait (s : State) (w : Word) (h : s.sp.val < 16) : (s.push w h).wait = s.wait := rfl
@[simp] theorem State.push_wreg (s : State) (w : Word) (h : s.sp.val < 16) : (s.push w h).wreg = s.wreg := rfl
@[simp] theorem State.push_fb (s : State) (w : Word) (h : s.sp.val < 16) : (s.push w h).fb = s.fb := rfl
@[simp] theorem State.push_chg (s : State) (w : Word) (h : s.sp.val < 16) : (s.push w h).chg = s.chg := rfl
@[simp] theorem State.push_mem (s : State) (w : Word) (h : s.sp.val < 16) : (s.push w h).mem = s.mem := rfl
@[simp] theorem State.push_unknownOut (s : State) (w : Word) (h : s.sp.val < 16) : (s.push w h).unknownOut = s.unknownOut := rfl
@[simp] theorem State.push_rndIn (s : State) (w : Word) (h : s.sp.val < 16) : (s.push w h).rndIn = s.rndIn := rfl
@[simp] theorem State.push_inputs (s : State) (w : Word) (h : s.sp.val < 16) : (s.push w h).inputs = s.inputs := rfl
@[simp] theorem State.push_tick (s : State) (w : Word) (h : s.sp.val < 16) : (s.push w h).tick = s.tick := rfl
@[simp] theorem State.push_reg (s : State) (w : Word) (h : s.sp.val < 16) (q : RegIx) : (s.push w h).reg q = s.reg q := rfl
@[simp] theorem State.push_byteAt (s : State) (w : Word) (h : s.sp.val < 16) (a : Nat) : (s.push w h).byteAt a = s.byteAt a := rfl
@[simp] theorem State.push_pixel (s : State) (w : Word) (h : s.sp.val < 16) (col : Fin 64) (row : Fin 32) : (s.push w h).pixel col row = s.pixel col row := rfl

/-! ### `pop` -/

@[simp] theorem State.pop_v (s : State) : (s.pop).v = s.v := rfl
@[simp] theorem State.pop_idx (s : State) : (s.pop).idx = s.idx := rfl
@[simp] theorem State.pop_pc (s : State) : (s.pop).pc = s.pc := rfl
@[simp] theorem State.pop_stack (s : State) : (s.pop).stack = s.stack := rfl
@[simp] theorem State.pop_sp (s : State) : (s.pop).sp = ⟨s.sp.val - 1, Nat.lt_of_le_of_lt (Nat.sub_le _ _) s.sp.isLt⟩ := rfl
@[simp] theorem State.pop_dt (s : State) : (s.pop).dt = s.dt := rfl
@[simp] theorem State.pop_st (s : State) : (s.pop).st = s.st := rfl
@[simp] theorem State.pop_key (s : State) : (s.pop).key = s.key := rfl
@[simp] theorem State.pop_wait (s : State) : (s.pop).wait = s.wait := rfl
@[simp] theorem State.pop_wreg (s : State) : (s.pop).wreg = s.wreg := rfl
@[simp] theorem State.pop_fb (s : State) : (s.pop).fb = s.fb := rfl
@[simp] theorem State.pop_chg (s : State) : (s.pop).chg = s.chg := rfl
@[simp] theorem State.pop_mem (s : State) : (s.pop).mem = s.mem := rfl
@[simp] theorem State.pop_unknownOut (s : State) : (s.pop).unknownOut = s.unknownOut := rfl
@[simp] theorem State.pop_rndIn (s : State) : (s.pop).rndIn = s.rndIn := rfl
@[simp] theorem State.pop_inputs (s : State) : (s.pop).inputs = s.inputs := rfl
@[simp] theorem State.pop_tick (s : State) : (s.pop).tick = s.tick := rfl
@[simp] theorem State.pop_reg (s : State) (q : RegIx) : (s.pop).reg q = s.reg q := rfl
@[simp] theorem State.pop_byteAt (s : State) (a : Nat) : (s.pop).byteAt a = s.byteAt a := rfl
@[simp] theorem State.pop_pixel (s : State) (col : Fin 64) (row : Fin 32) : (s.pop).pixel col row = s.pixel col row := rfl

/-! ### `advance` -/

@[simp] theorem State.advance_v (s : State) : (s.advance).v = s.v := rfl
@[simp] theorem State.advance_idx (s : State) : (s.advance).idx = s.idx := rfl
@[simp] theorem State.advance_pc (s : State) : (s.advance).pc = s.pc + 2 := rfl
@[simp] theorem State.advance_stack (s : State) : (s.advance).stack = s.stack := rfl
@[simp] theorem State.advance_sp (s : State) : (s.advance).sp = s.sp := rfl
@[simp] theorem State.advance_dt (s : State) : (s.advance).dt = s.dt := rfl
@[simp] theorem State.advance_st (s : State) : (s.advance).st = s.st := rfl
@[simp] theorem State.advance_key (s : State) : (s.advance).key = s.key := rfl
@[simp] theorem State.advance_wait (s : State) : (s.advance).wait = s.wait := rfl
@[simp] theorem State.advance_wreg (s : State) : (s.advance).wreg = s.wreg := rfl
@[simp] theorem State.advance_fb (s : State) : (s.advance).fb = s.fb := rfl
@[simp] theorem State.advance_chg (s : State) : (s.advance).chg = s.chg := rfl
@[simp] theorem State.advance_mem (s : State) : (s.advance).mem = s.mem := rfl
@[simp] theorem State.advance_unknownOut (s : State) : (s.advance).unknownOut = s.unknownOut := rfl
@[simp] theorem State.advance_rndIn (s : State) : (s.advance).rndIn = s.rndIn := rfl
@[simp] theorem State.advance_inputs (s : State) : (s.advance).inputs = s.inputs := rfl
@[simp] theorem State.advance_tick (s : State) : (s.advance).tick = s.tick := rfl
@[simp] theorem State.advance_reg (s : State) (q : RegIx) : (s.advance).reg q = s.reg q := rfl
@[simp] theorem State.advance_byteAt (s : State) (a : Nat) : (s.advance).byteAt a = s.byteAt a := rfl
@[simp] theorem State.advance_pixel (s : State) (col : Fin 64) (row : Fin 32) : (s.advance).pixel col row = s.pixel col row := rfl
@[simp] theorem State.advance_top (s : State) : (s.advance).top = s.top := rfl

/-! ### `skip` -/

@[simp] theorem State.skip_v (s : State) : (s.skip).v = s.v := rfl
@[simp] theorem State.skip_idx (s : State) : (s.skip).idx = s.idx := rfl
@[simp] theorem State.skip_pc (s : State) : (s.skip).pc = s.pc + 4 := rfl
@[simp] theorem State.skip_stack (s : State) : (s.skip).stack = s.stack := rfl
@[simp] theorem State.skip_sp (s : State) : (s.skip).sp = s.sp := rfl
@[simp] theorem State.skip_dt (s : State) : (s.skip).dt = s.dt := rfl
@[simp] theorem State.skip_st (s : State) : (s.skip).st = s.st := rfl
@[simp] theorem State.skip_key (s : State) : (s.skip).key = s.key := rfl
@[simp] theorem State.skip_wait (s : State) : (s.skip).wait = s.wait := rfl
@[simp] theorem State.skip_wreg (s : State) : (s.skip).wreg = s.wreg := rfl
@[simp] theorem State.skip_fb (s : State) : (s.skip).fb = s.fb := rfl
@[simp] theorem State.skip_chg (s : State) : (s.skip).chg = s.chg := rfl
@[simp] theorem State.skip_mem (s : State) : (s.skip).mem = s.mem := rfl
@[simp] theorem State.skip_unknownOut (s : State) : (s.skip).unknownOut = s.unknownOut := rfl
@[simp] theorem State.skip_rndIn (s : State) : (s.skip).rndIn = s.rndIn := rfl
@[simp] theorem State.skip_inputs (s : State) : (s.skip).inputs = s.inputs := rfl
@[simp] theorem State.skip_tick (s : State) : (s.skip).tick = s.tick := rfl
@[simp] theorem State.skip_reg (s : State) (q : RegIx) : (s.skip).reg q = s.reg q := rfl
@[simp] theorem State.skip_byteAt (s : State) (a : Nat) : (s.skip).byteAt a = s.byteAt a := rfl
@[simp] theorem State.skip_pixel (s : State) (col : Fin 64) (row : Fin 32) : (s.skip).pixel col row = s.pixel col row := rfl
@[simp] theorem State.skip_top (s : State) : (s.skip).top = s.top := rfl

/-! ### `skipIf` -/

@[simp] theorem State.skipIf_v (s : State) (c : Bool) : (s.skipIf c).v = s.v := by cases c <;> rfl
@[simp] theorem State.skipIf_idx (s : State) (c : Bool) : (s.skipIf c).idx = s.idx := by cases c <;> rfl
@[simp] theorem State.skipIf_pc (s : State) (c : Bool) : (s.skipIf c).pc = if c then s.pc + 4 else s.pc + 2 := by cases c <;> rfl
@[simp] theorem State.skipIf_stack (s : State) (c : Bool) : (s.skipIf c).stack = s.stack := by cases c <;> rfl
@[simp] theorem State.skipIf_sp (s : State) (c : Bool) : (s.skipIf c).sp = s.sp := by cases c <;> rfl
@[simp] theorem State.skipIf_dt (s : State) (c : Bool) : (s.skipIf c).dt = s.dt := by cases c <;> rfl
@[simp] theorem State.skipIf_st (s : State) (c : Bool) : (s.skipIf c).st = s.st := by cases c <;> rfl
@[simp] theorem State.skipIf_key (s : State) (c : Bool) : (s.skipIf c).key = s.key := by cases c <;> rfl
@[simp] theorem State.skipIf_wait (s : State) (c : Bool) : (s.skipIf c).wait = s.wait := by cases c <;> rfl
@[simp] theorem State.skipIf_wreg (s : State) (c : Bool) : (s.skipIf c).wreg = s.wreg := by cases c <;> rfl
@[simp] theorem State.skipIf_fb (s : State) (c : Bool) : (s.skipIf c).fb = s.fb := by cases c <;> rfl
@[simp] theorem State.skipIf_chg (s : State) (c : Bool) : (s.skipIf c).chg = s.chg := by cases c <;> rfl
@[simp] theorem State.skipIf_mem (s : State) (c : Bool) : (s.skipIf c).mem = s.mem := by cases c <;> rfl
@[simp] theorem State.skipIf_unknownOut (s : State) (c : Bool) : (s.skipIf c).unknownOut = s.unknownOut := by cases c <;> rfl
@[simp] theorem State.skipIf_rndIn (s : State) (c : Bool) : (s.skipIf c).rndIn = s.rndIn := by cases c <;> rfl
@[simp] theorem State.skipIf_inputs (s : State) (c : Bool) : (s.skipIf c).inputs = s.inputs := by cases c <;> rfl
@[simp] theorem State.skipIf_tick (s : State) (c : Bool) : (s.skipIf c).tick = s.tick := by cases c <;> rfl
@[simp] theorem State.skipIf_reg (s : State) (c : Bool) (q : RegIx) : (s.skipIf c).reg q = s.reg q := by cases c <;> rfl
@[simp] theorem State.skipIf_byteAt (s : State) (c : Bool) (a : Nat) : (s.skipIf c).byteAt a = s.byteAt a := by cases c <;> rfl
@[simp] theorem State.skipIf_pixel (s : State) (c : Bool) (col : Fin 64) (row : Fin 32) : (s.skipIf c).pixel col row = s.pixel col row := by cases c <;> rfl
@[simp] theorem State.skipIf_top (s : State) (c : Bool) : (s.skipIf c).top = s.top := by cases c <;> rfl

/-! ### `setFlag` -/

@[simp] theorem State.setFlag_v (s : State) (f : Bool) : (s.setFlag f).v = s.v.set 15 (flagByte f) := rfl
@[simp] theorem State.setFlag_idx (s : State) (f : Bool) : (s.setFlag f).idx = s.idx := rfl
@[simp] theorem State.setFlag_pc (s : State) (f : Bool) : (s.setFlag f).pc = s.pc := rfl
@[simp] theorem State.setFlag_stack (s : State) (f : Bool) : (s.setFlag f).stack = s.stack := rfl
@[simp] theorem State.setFlag_sp (s : State) (f : Bool) : (s.setFlag f).sp = s.sp := rfl
@[simp] theorem State.setFlag_dt (s : State) (f : Bool) : (s.setFlag f).dt = s.dt := rfl
@[simp] theorem State.setFlag_st (s : State) (f : Bool) : (s.setFlag f).st = s.st := rfl
@[simp] theorem State.setFlag_key (s : State) (f : Bool) : (s.setFlag f).key = s.key := rfl
@[simp] theorem State.setFlag_wait (s : State) (f : Bool) : (s.setFlag f).wait = s.wait := rfl
@[simp] theorem State.setFlag_wreg (s : State) (f : Bool) : (s.setFlag f).wreg = s.wreg := rfl
@[simp] theorem State.setFlag_fb (s : State) (f : Bool) : (s.setFlag f).fb = s.fb := rfl
@[simp] theorem State.setFlag_chg (s : State) (f : Bool) : (s.setFlag f).chg = s.chg := rfl
@[simp] theorem State.setFlag_mem (s : State) (f : Bool) : (s.setFlag f).mem = s.mem := rfl
@[simp] theorem State.setFlag_unknownOut (s : State) (f : Bool) : (s.setFlag f).unknownOut = s.unknownOut := rfl
@[simp] theorem State.setFlag_rndIn (s : State) (f : Bool) : (s.setFlag f).rndIn = s.rndIn := rfl
@[simp] theorem State.setFlag_inputs (s : State) (f : Bool) : (s.setFlag f).inputs = s.inputs := rfl
@[simp] theorem State.setFlag_tick (s : State) (f : Bool) : (s.setFlag f).tick = s.tick := rfl
@[simp] theorem State.setFlag_byteAt (s : State) (f : Bool) (a : Nat) : (s.setFlag f).byteAt a = s.byteAt a := rfl
@[simp] theorem State.setFlag_pixel (s : State) (f : Bool) (col : Fin 64) (row : Fin 32) : (s.setFlag f).pixel col row = s.pixel col row := rfl
@[simp] theorem State.setFlag_top (s : State) (f : Bool) : (s.setFlag f).top = s.top := rfl

/-! ### `setResultFlag` -/

@[simp] theorem State.setResultFlag_v (s : State) (x : RegIx) (b : Byte) (f : Bool) : (s.setResultFlag x b f).v = (s.v.set x.toNat b x.isLt).set 15 (flagByte f) := rfl
@[simp] theorem State.setResultFlag_idx (s : State) (x : RegIx) (b : Byte) (f : Bool) : (s.setResultFlag x b f).idx = s.idx := rfl
@[simp] theorem State.setResultFlag_pc (s : State) (x : RegIx) (b : Byte) (f : Bool) : (s.setResultFlag x b f).pc = s.pc := rfl
@[simp] theorem State.setResultFlag_stack (s : State) (x : RegIx) (b : Byte) (f : Bool) : (s.setResultFlag x b f).stack = s.stack := rfl
@[simp] theorem State.setResultFlag_sp (s : State) (x : RegIx) (b : Byte) (f : Bool) : (s.setResultFlag x b f).sp = s.sp := rfl
@[simp] theorem State.setResultFlag_dt (s : State) (x : RegIx) (b : Byte) (f : Bool) : (s.setResultFlag x b f).dt = s.dt := rfl
@[simp] theorem State.setResultFlag_st (s : State) (x : RegIx) (b : Byte) (f : Bool) : (s.setResultFlag x b f).st = s.st := rfl
@[simp] theorem State.setResultFlag_key (s : State) (x : RegIx) (b : Byte) (f : Bool) : (s.setResultFlag x b f).key = s.key := rfl
@[simp] theorem State.setResultFlag_wait (s : State) (x : RegIx) (b : Byte) (f : Bool) : (s.setResultFlag x b f).wait = s.wait := rfl
@[simp] theorem State.setResultFlag_wreg (s : State) (x : RegIx) (b : Byte) (f : Bool) : (s.setResultFlag x b f).wreg = s.wreg := rfl
@[simp] theorem State.setResultFlag_fb (s : State) (x : RegIx) (b : Byte) (f : Bool) : (s.setResultFlag x b f).fb = s.fb := rfl
@[simp] theorem State.setResultFlag_chg (s : State) (x : RegIx) (b : Byte) (f : Bool) : (s.setResultFlag x b f).chg = s.chg := rfl
@[simp] theorem State.setResultFlag_mem (s : State) (x : RegIx) (b : Byte) (f : Bool) : (s.setResultFlag x b f).mem = s.mem := rfl
@[simp] theorem State.setResultFlag_unknownOut (s : State) (x : RegIx) (b : Byte) (f : Bool) : (s.setResultFlag x b f).unknownOut = s.unknownOut := rfl
@[simp] theorem State.setResultFlag_rndIn (s : State) (x : RegIx) (b : Byte) (f : Bool) : (s.setResultFlag x b f).rndIn = s.rndIn := rfl
@[simp] theorem State.setResultFlag_inputs (s : State) (x : RegIx) (b : Byte) (f : Bool) : (s.setResultFlag x b f).inputs = s.inputs := rfl
@[simp] theorem State.setResultFlag_tick (s : State) (x : RegIx) (b : Byte) (f : Bool) : (s.setResultFlag x b f).tick = s.tick := rfl
@[simp] theorem State.setResultFlag_byteAt (s : State) (x : RegIx) (b : Byte) (f : Bool) (a : Nat) : (s.setResultFlag x b f).byteAt a = s.byteAt a := rfl
@[simp] theorem State.setResultFlag_pixel (s : State) (x : RegIx) (b : Byte) (f : Bool) (col : Fin 64) (row : Fin 32) : (s.setResultFlag x b f).pixel col row = s.pixel col row := rfl
@[simp] theorem State.setResultFlag_top (s : State) (x : RegIx) (b : Byte) (f : Bool) : (s.setResultFlag x b f).top = s.top := rfl

/-! ### `enter` -/

@[simp] theorem State.enter_v (s : State) (inp : Input) : (s.enter inp).v = s.v := rfl
@[simp] theorem State.enter_idx (s : State) (inp : Input) : (s.enter inp).idx = s.idx := rfl
@[simp] theorem State.enter_pc (s : State) (inp : Input) : (s.enter inp).pc = s.pc := rfl
@[simp] theorem State.enter_stack (s : State) (inp : Input) : (s.enter inp).stack = s.stack := rfl
@[simp] theorem State.enter_sp (s : State) (inp : Input) : (s.enter inp).sp = s.sp := rfl
@[simp] theorem State.enter_dt (s : State) (inp : Input) : (s.enter inp).dt = s.dt := rfl
@[simp] theorem State.enter_st (s : State) (inp : Input) : (s.enter inp).st = s.st := rfl
@[simp] theorem State.enter_key (s : State) (inp : Input) : (s.enter inp).key = inp.keys := rfl
@[simp] theorem State.enter_wait (s : State) (inp : Input) : (s.enter inp).wait = s.wait := rfl
@[simp] theorem State.enter_wreg (s : State) (inp : Input) : (s.enter inp).wreg = s.wreg := rfl
@[simp] theorem State.enter_fb (s : State) (inp : Input) : (s.enter inp).fb = s.fb := rfl
@[simp] theorem State.enter_chg (s : State) (inp : Input) : (s.enter inp).chg = false := rfl
@[simp] theorem State.enter_mem (s : State) (inp : Input) : (s.enter inp).mem = s.mem := rfl
@[simp] theorem State.enter_unknownOut (s : State) (inp : Input) : (s.enter inp).unknownOut = none := rfl
@[simp] theorem State.enter_rndIn (s : State) (inp : Input) : (s.enter inp).rndIn = inp.rnd := rfl
@[simp] theorem State.enter_inputs (s : State) (inp : Input) : (s.enter inp).inputs = s.inputs := rfl
@[simp] theorem State.enter_tick (s : State) (inp : Input) : (s.enter inp).tick = s.tick := rfl
@[simp] theorem State.enter_reg (s : State) (inp : Input) (q : RegIx) : (s.enter inp).reg q = s.reg q := rfl
@[simp] theorem State.enter_byteAt (s : State) (inp : Input) (a : Nat) : (s.enter inp).byteAt a = s.byteAt a := rfl
@[simp] theorem State.enter_pixel (s : State) (inp : Input) (col : Fin 64) (row : Fin 32) : (s.enter inp).pixel col row = s.pixel col row := rfl
@[simp] theorem State.enter_top (s : State) (inp : Input) : (s.enter inp).top = s.top := rfl

/-! ### `takeInput` -/

@[simp] theorem State.takeInput_v (s : State) : (s.takeInput).v = s.v := rfl
@[simp] theorem State.takeInput_idx (s : State) : (s.takeInput).idx = s.idx := rfl
@[simp] theorem State.takeInput_pc (s : State) : (s.takeInput).pc = s.pc := rfl
@[simp] theorem State.takeInput_stack (s : State) : (s.takeInput).stack = s.stack := rfl
@[simp] theorem State.takeInput_sp (s : State) : (s.takeInput).sp = s.sp := rfl
@[simp] theorem State.takeInput_dt (s : State) : (s.takeInput).dt = s.dt := rfl
@[simp] theorem State.takeInput_st (s : State) : (s.takeInput).st = s.st := rfl
@[simp] theorem State.takeInput_key (s : State) : (s.takeInput).key = s.key := rfl
@[simp] theorem State.takeInput_wait (s : State) : (s.takeInput).wait = s.wait := rfl
@[simp] theorem State.takeInput_wreg (s : State) : (s.takeInput).wreg = s.wreg := rfl
@[simp] theorem State.takeInput_fb (s : State) : (s.takeInput).fb = s.fb := rfl
@[simp] theorem State.takeInput_chg (s : State) : (s.takeInput).chg = s.chg := rfl
@[simp] theorem State.takeInput_mem (s : State) : (s.takeInput).mem = s.mem := rfl
@[simp] theorem State.takeInput_unknownOut (s : State) : (s.takeInput).unknownOut = s.unknownOut := rfl
@[simp] theorem State.takeInput_rndIn (s : State) : (s.takeInput).rndIn = s.rndIn := rfl
@[simp] theorem State.takeInput_inputs (s : State) : (s.takeInput).inputs = s.inputs.tail := rfl
@[simp] theorem State.takeInput_tick (s : State) : (s.takeInput).tick = s.tick + 1 := rfl
@[simp] theorem State.takeInput_reg (s : State) (q : RegIx) : (s.takeInput).reg q = s.reg q := rfl
@[simp] theorem State.takeInput_byteAt (s : State) (a : Nat) : (s.takeInput).byteAt a = s.byteAt a := rfl
@[simp] theorem State.takeInput_pixel (s : State) (col : Fin 64) (row : Fin 32) : (s.takeInput).pixel col row = s.pixel col row := rfl
@[simp] theorem State.takeInput_top (s : State) : (s.takeInput).top = s.top := rfl

/-! ### Reading back -/

/-- A register read after a register write: the written byte at the written register, the old byte elsewhere. -/
@[simp] theorem State.setReg_reg (s : State) (r q : RegIx) (b : Byte) :
    (s.setReg r b).reg q = if q = r then b else s.reg q := by
  simp [State.reg, State.setReg, Vector.getElem_set, BitVec.toNat_inj, eq_comm]

/-- The flag is in `VF`, every other register is as it was (R11). -/
@[simp] theorem State.setFlag_reg (s : State) (f : Bool) (q : RegIx) :
    (s.setFlag f).reg q = if q = regF then flagByte f else s.reg q := State.setReg_reg s regF q (flagByte f)

/-- Result and flag: the flag wins in `VF` (R120). -/
@[simp] theorem State.setResultFlag_reg (s : State) (x : RegIx) (b : Byte) (f : Bool) (q : RegIx) :
    (s.setResultFlag x b f).reg q = if q = regF then flagByte f else if q = x then b else s.reg q := by
  simp [State.setResultFlag]

/-- A byte read through a replaced memory. -/
@[simp] theorem State.setMem_byteAt (s : State) (m : Memory) (a : Nat) : (s.setMem m).byteAt a = m.read a := rfl

/-- A pixel read through a replaced framebuffer. -/
@[simp] theorem State.setFb_pixel (s : State) (f : Frame) (col : Fin 64) (row : Fin 32) :
    (s.setFb f).pixel col row = f.pixel col row := rfl

/-- Two states with the same fields are the same state, register by register where that is handier. -/
theorem State.reg_ext (s t : State) (h : ∀ r, t.reg r = s.reg r) : t.v = s.v := by
  apply Vector.ext
  intro i hi
  have := h (BitVec.ofNat 4 i)
  simpa [State.reg, Nat.mod_eq_of_lt hi] using this

end Sys2Proof.Machine
end

