-- ==== Sys2Proof/Laws/Ops.lean ====
section
/-! SUPPORT. One lemma per shared operation: everything it can do, to be cited where the operation is called. -/

namespace Sys2Proof.Machine

/-- `jump`: below 4096 it sets the cursor and nothing else; otherwise it faults with the target (R89). -/
theorem State.jump_cases (s : State) (addr : Nat) :
    (addr < 4096 ∧ s.jump addr = .next { s with pc := BitVec.ofNat 16 addr }) ∨
      (4096 ≤ addr ∧ s.jump addr = .fault (.outOfRange addr)) := by
  by_cases h : 4096 ≤ addr
  · exact .inr ⟨h, by simp only [State.jump, Config.memSize, raise, ge_iff_le, h, if_true]⟩
  · exact .inl ⟨by omega, by simp only [State.jump, Config.memSize, ge_iff_le, h, if_false]⟩

/-- If a jump answers a next state, the target was in range and only the cursor changed (R89). -/
theorem State.jump_next {s t : State} {addr : Nat} (h : s.jump addr = .next t) :
    addr < 4096 ∧ t = { s with pc := BitVec.ofNat 16 addr } := by
  rcases s.jump_cases addr with ⟨hlt, he⟩ | ⟨_, he⟩
  · rw [he] at h; exact ⟨hlt, by injection h with h; exact h.symm⟩
  · rw [he] at h; cases h

/-- The range check: it lets the instruction run or faults with 4096 (R46). -/
theorem inRange_cases (base count : Nat) (k : Result) :
    (base + count ≤ 4096 ∧ inRange base count k = k) ∨
      (4096 < base + count ∧ inRange base count k = .fault (.outOfRange 4096)) := by
  by_cases h : base + count > 4096
  · exact .inr ⟨h, by simp only [inRange, Config.memSize, raise, h, if_true]⟩
  · exact .inl ⟨by omega, by simp only [inRange, Config.memSize, h, if_false]⟩

/-- If a range-checked instruction answers a next state, its bytes were in range and the rest answered it (R46). -/
theorem inRange_next {base count : Nat} {k : Result} {t : State} (h : inRange base count k = .next t) :
    base + count ≤ 4096 ∧ k = .next t := by
  rcases inRange_cases base count k with ⟨hle, he⟩ | ⟨_, he⟩
  · exact ⟨hle, he ▸ h⟩
  · rw [he] at h; cases h

/-- Fetch: the big-endian word, or the fault of the first byte that is out of range (R84). -/
theorem State.fetch_cases (s : State) :
    (s.pc.toNat + 1 < 4096 ∧
        s.fetch = .ok (wordOfBytes (s.byteAt s.pc.toNat) (s.byteAt (s.pc.toNat + 1)))) ∨
      (s.pc.toNat = 4095 ∧ s.fetch = .error (.outOfRange 4096)) ∨
      (4096 ≤ s.pc.toNat ∧ s.fetch = .error (.outOfRange s.pc.toNat)) := by
  by_cases h : s.pc.toNat ≥ 4096
  · exact .inr (.inr ⟨h, by simp only [State.fetch, Config.memSize, h, if_true]⟩)
  · by_cases h1 : s.pc.toNat + 1 ≥ 4096
    · have h2 : s.pc.toNat = 4095 := by omega
      exact .inr (.inl ⟨h2, by simp only [State.fetch, Config.memSize, h, h1, if_true, if_false]; simp [h2]⟩)
    · exact .inl ⟨by omega, by simp only [State.fetch, Config.memSize, h, h1, if_false]⟩

/-- Fetch looks at the cursor and memory only. -/
@[simp] theorem State.fetch_tickTimers (s : State) : s.tickTimers.fetch = s.fetch := rfl

/-- Fetch looks at the cursor and memory only. -/
@[simp] theorem State.fetch_enter (s : State) (inp : Input) : (s.enter inp).fetch = s.fetch := rfl

/-- Fetch looks at the cursor and memory only. -/
@[simp] theorem State.fetch_takeInput (s : State) : s.takeInput.fetch = s.fetch := rfl

/-- The timers' countdown is subtraction cut off at 0 (R16). -/
theorem countDown_toNat (b : Byte) : (countDown b).toNat = b.toNat - 1 := by
  by_cases h : b = 0
  · simp [countDown, h]
  · have : b.toNat ≠ 0 := fun hz => h (by simpa using BitVec.eq_of_toNat_eq (x := b) (y := 0#8) (by simpa using hz))
    have hb := b.isLt
    simp only [countDown, h, if_false]
    rw [BitVec.toNat_sub]
    simp
    omega

/-- The lowest key down is down, is one of the 16, and no lower key is down (R82). -/
theorem lowestKey_some {keys : BitVec 16} {k : Nat} (h : lowestKey keys = some k) :
    k < 16 ∧ keys.getLsbD k = true ∧ ∀ j < k, keys.getLsbD j = false := by
  simp only [lowestKey, List.find?_range_eq_some] at h
  obtain ⟨hk, hmem, hlow⟩ := h
  exact ⟨by simpa using hmem, hk, fun j hj => by simpa using hlow j hj⟩

/-- No lowest key: no key is down (R82). -/
theorem lowestKey_none {keys : BitVec 16} (h : lowestKey keys = none) : keys = 0 := by
  simp only [lowestKey, List.find?_eq_none, List.mem_range] at h
  apply BitVec.eq_of_getLsbD_eq
  intro i hi
  simpa using h i hi

/-- A pixel after one pixel is inverted: that pixel inverted, the others as before (R151). -/
@[simp] theorem Frame.pixel_flipPixel (fb : Frame) (c c' : Fin 64) (r r' : Fin 32) :
    (fb.flipPixel c r).pixel c' r' = (fb.pixel c' r' ^^ (decide (c' = c) && decide (r' = r))) := by
  by_cases hr : r' = r
  · subst hr
    by_cases hc : c' = c
    · subst hc
      simp [Frame.pixel, Frame.flipPixel]
    · have hne : c'.val ≠ c.val := fun h => hc (Fin.ext h)
      have hbit : (!decide (c' < c) && decide (c'.val - c.val = 0)) = false := by
        rw [Bool.and_eq_false_iff]; simp only [Bool.not_eq_false', decide_eq_true_eq, decide_eq_false_iff_not]; omega
      simp [Frame.pixel, Frame.flipPixel, hc, hbit]
  · have hne : r.val ≠ r'.val := fun h => hr (Fin.ext h.symm)
    simp [Frame.pixel, Frame.flipPixel, hr, hne]

/-- A blank framebuffer has no pixel set (R150). -/
@[simp] theorem Frame.pixel_blank (c : Fin 64) (r : Fin 32) : Frame.blank.pixel c r = false := by
  simp [Frame.pixel, Frame.blank]

/-- The two branches of a step (R81). -/
theorem stepWith_cases (inp : Input) (s : State) :
    (s.wait = true ∧ stepWith inp s = .next (s.enter inp).waitingBranch) ∨
      (s.wait = false ∧ ∃ op, s.fetch = .ok op ∧ stepWith inp s = exec (decode op) (s.enter inp).tickTimers) ∨
      (s.wait = false ∧ ∃ f, s.fetch = .error f ∧ stepWith inp s = .fault f) := by
  cases hw : s.wait with
  | true => exact .inl ⟨rfl, by simp only [stepWith, hw, if_true]⟩
  | false =>
    right
    cases hf : s.fetch with
    | ok op => exact .inl ⟨rfl, op, rfl, by simp [stepWith, hw, State.runningBranch, hf]⟩
    | error f => exact .inr ⟨rfl, f, rfl, by simp [stepWith, hw, State.runningBranch, hf, raise]⟩

end Sys2Proof.Machine
end

