-- ==== Sys2Proof/Laws/Display.lean ====
section
/-! SUPPORT. What drawing a sprite does: `drawSprite` is the inversion of a list of distinct pixels, so each pixel under a 1 bit is inverted once and a collision is a set pixel among them (spec/44_display.md R151). -/

namespace Sys2Proof.Machine

/-- One pixel inverted, a collision noted if it was set. -/
def hitPixel (cv : Canvas) (p : Fin 64 × Fin 32) : Canvas :=
  { fb := cv.fb.flipPixel p.1 p.2, hit := cv.hit || cv.fb.pixel p.1 p.2 }

/-- The pixels under the 1 bits of sprite row `r`, left to right. -/
def rowPixels (vx vy : Byte) (r : Nat) (b : Byte) : List (Fin 64 × Fin 32) :=
  ((List.range 8).filter (fun c => b.getLsbD (7 - c))).map (fun c => (spriteCol vx c, spriteRow vy r))

/-- The pixels under the 1 bits of an `n`-row sprite at `base`, in drawing order. -/
def spritePixels (s : State) (vx vy : Byte) (base n : Nat) : List (Fin 64 × Fin 32) :=
  (List.range n).flatMap (fun r => rowPixels vx vy r (s.byteAt (base + r)))

/-- Inverting distinct pixels inverts each once; the collision is a pixel of the list that was set before (R151). -/
theorem foldl_hitPixel (ps : List (Fin 64 × Fin 32)) (hps : ps.Nodup) (cv : Canvas) :
    (∀ q : Fin 64 × Fin 32,
        (ps.foldl hitPixel cv).fb.pixel q.1 q.2 = (cv.fb.pixel q.1 q.2 ^^ decide (q ∈ ps))) ∧
      ((ps.foldl hitPixel cv).hit = true ↔ cv.hit = true ∨ ∃ q ∈ ps, cv.fb.pixel q.1 q.2 = true) := by
  induction ps generalizing cv with
  | nil => simp
  | cons p ps ih =>
    obtain ⟨hp, hnd⟩ := List.nodup_cons.mp hps
    obtain ⟨hpix, hhit⟩ := ih hnd (hitPixel cv p)
    have hflip : ∀ q : Fin 64 × Fin 32,
        (hitPixel cv p).fb.pixel q.1 q.2 = (cv.fb.pixel q.1 q.2 ^^ decide (q = p)) := by
      intro q; simp [hitPixel, Prod.ext_iff, Bool.decide_and]
    refine ⟨fun q => ?_, ?_⟩
    · rw [List.foldl_cons, hpix, hflip]
      by_cases hq : q = p
      · subst hq; simp [hp]
      · simp [hq]
    · rw [List.foldl_cons, hhit]
      have hsame : ∀ q ∈ ps, (hitPixel cv p).fb.pixel q.1 q.2 = cv.fb.pixel q.1 q.2 := by
        intro q hq
        have hne : q ≠ p := fun e => hp (e ▸ hq)
        rw [hflip]; simp [hne]
      constructor
      · rintro (h | ⟨q, hq, h⟩)
        · simp only [hitPixel, Bool.or_eq_true] at h
          exact h.imp id fun h => ⟨p, by simp, h⟩
        · exact .inr ⟨q, by simp [hq], by rw [← hsame q hq]; exact h⟩
      · rintro (h | ⟨q, hq, h⟩)
        · exact .inl (by simp [hitPixel, h])
        · rcases List.mem_cons.mp hq with rfl | hq
          · exact .inl (by simp [hitPixel, h])
          · exact .inr ⟨q, hq, by rw [hsame q hq]; exact h⟩

/-- A sprite row draws its pixels one after another. -/
theorem drawRow_eq (vx vy : Byte) (r : Nat) (b : Byte) (cv : Canvas) :
    drawRow vx vy r b cv = (rowPixels vx vy r b).foldl hitPixel cv := by
  rw [drawRow, rowPixels, List.foldl_map, List.foldl_filter]
  rfl

/-- A sprite draws its pixels one after another (R151). -/
theorem drawSprite_eq (s : State) (vx vy : Byte) (base n : Nat) :
    drawSprite s vx vy base n = (spritePixels s vx vy base n).foldl hitPixel { fb := s.fb, hit := false } := by
  rw [drawSprite, spritePixels, List.foldl_flatMap]
  simp only [drawRow_eq]

/-- Sprite columns do not meet: eight distinct columns (R151). -/
theorem spriteCol_inj {vx : Byte} {c c' : Nat} (hc : c < 8) (hc' : c' < 8) (h : spriteCol vx c = spriteCol vx c') : c = c' := by
  have := congrArg Fin.val h
  simp only [spriteCol, Fin.val_ofNat] at this
  omega

/-- Sprite rows do not meet: at most fifteen distinct rows (R151). -/
theorem spriteRow_inj {vy : Byte} {r r' : Nat} (hr : r < 16) (hr' : r' < 16) (h : spriteRow vy r = spriteRow vy r') : r = r' := by
  have := congrArg Fin.val h
  simp only [spriteRow, Fin.val_ofNat] at this
  omega

/-- No pixel is addressed twice within one sprite (R151). -/
theorem spritePixels_nodup (s : State) (vx vy : Byte) (base n : Nat) (hn : n ≤ 16) : (spritePixels s vx vy base n).Nodup := by
  rw [spritePixels, List.nodup_flatMap]
  refine ⟨fun r _ => ?_, ?_⟩
  · refine List.Nodup.map_on ?_ (List.Nodup.filter _ List.nodup_range)
    intro c hc c' hc' h
    rw [List.mem_filter, List.mem_range] at hc hc'
    exact spriteCol_inj hc.1 hc'.1 (Prod.ext_iff.mp h).1
  · refine List.Pairwise.imp_of_mem ?_ List.nodup_range
    intro r r' hr hr' hne q hq hq'
    rw [List.mem_range] at hr hr'
    simp only [rowPixels, List.mem_map] at hq hq'
    obtain ⟨c, _, rfl⟩ := hq
    obtain ⟨c', _, h⟩ := hq'
    exact hne (spriteRow_inj (by omega) (by omega) (Prod.ext_iff.mp h).2.symm)

/-- Which pixels a sprite's 1 bits fall on, by row and column of the sprite (R151). -/
theorem mem_spritePixels (s : State) (vx vy : Byte) (base n : Nat) (col : Fin 64) (row : Fin 32) :
    (col, row) ∈ spritePixels s vx vy base n ↔
      ∃ r c : Nat, r < n ∧ c < 8 ∧ (s.byteAt (base + r)).getLsbD (7 - c) = true ∧
        col.val = (vx.toNat % 64 + c) % 64 ∧ row.val = (vy.toNat % 32 + r) % 32 := by
  simp only [spritePixels, rowPixels, List.mem_flatMap, List.mem_range, List.mem_map, List.mem_filter, Prod.mk.injEq,
    Fin.ext_iff, spriteCol, spriteRow, Fin.val_ofNat]
  constructor
  · rintro ⟨r, hr, c, ⟨hc, hb⟩, h1, h2⟩; exact ⟨r, c, hr, hc, hb, h1.symm, h2.symm⟩
  · rintro ⟨r, c, hr, hc, hb, h1, h2⟩; exact ⟨r, hr, c, ⟨hc, hb⟩, h1.symm, h2.symm⟩

/-- Everything `drawSprite` does: each pixel under a 1 bit inverted, the others as before, a collision iff one of them was set (R151). -/
theorem drawSprite_spec (s : State) (vx vy : Byte) (base n : Nat) (hn : n ≤ 16) :
    (∀ col row, (drawSprite s vx vy base n).fb.pixel col row =
        (s.pixel col row ^^ decide ((col, row) ∈ spritePixels s vx vy base n))) ∧
      ((drawSprite s vx vy base n).hit = true ↔
        ∃ q ∈ spritePixels s vx vy base n, s.pixel q.1 q.2 = true) := by
  rw [drawSprite_eq]
  obtain ⟨hpix, hhit⟩ := foldl_hitPixel _ (spritePixels_nodup s vx vy base n hn) { fb := s.fb, hit := false }
  exact ⟨fun col row => hpix (col, row), by simpa [State.pixel] using hhit⟩

end Sys2Proof.Machine
end

