-- ==== Sys2Proof/Laws/Exec.lean ====
section
/-! SUPPORT. What each instruction that can fault has done when it completes: one inversion lemma each, so that proofs about `exec` need not unfold its meaning. The others complete in every state by `rfl`. -/

namespace Sys2Proof.Machine

/-- `RET` completed: the stack was not empty, the popped address in range (R100). -/
theorem execRet_next {s t : State} (h : execRet s = .next t) :
    s.sp ≠ 0 ∧ s.top.toNat < 4096 ∧ t = { s.pop with pc := s.top } := by
  by_cases hs : s.sp = 0
  · simp only [execRet, hs, raise, if_true] at h; cases h
  · simp only [execRet, hs, if_false] at h
    obtain ⟨hlt, rfl⟩ := State.jump_next h
    exact ⟨hs, hlt, by simp⟩

/-- `JP` completed (R101). -/
theorem execJp_next {nnn : Addr} {s t : State} (h : execJp nnn s = .next t) : t = { s with pc := addrWord nnn } := by
  obtain ⟨_, rfl⟩ := State.jump_next h
  simp

/-- `JP` always completes (R101). -/
theorem execJp_eq (nnn : Addr) (s : State) : execJp nnn s = .next { s with pc := addrWord nnn } := by
  have hn := nnn.isLt
  have hlt : ¬ (4096 ≤ (addrWord nnn).toNat) := by simp only [addrWord, BitVec.toNat_setWidth]; omega
  simp only [execJp, State.jump, Config.memSize, ge_iff_le, hlt, if_false, BitVec.ofNat_toNat, BitVec.setWidth_eq]

/-- `CALL` completed: the stack was not full (R102). -/
theorem execCall_next {nnn : Addr} {s t : State} (h : execCall nnn s = .next t) :
    ∃ hs : s.sp.val < 16, t = { s.push (s.pc + 2) hs with pc := addrWord nnn } := by
  by_cases hs : s.sp.val < 16
  · simp only [execCall, hs, dite_true] at h
    obtain ⟨_, rfl⟩ := State.jump_next h
    exact ⟨hs, by simp⟩
  · simp only [execCall, hs, raise, dite_false] at h; cases h

/-- `CALL` with room on the stack always completes (R102). -/
theorem execCall_eq (nnn : Addr) (s : State) (hs : s.sp.val < 16) :
    execCall nnn s = .next { s.push (s.pc + 2) hs with pc := addrWord nnn } := by
  simp only [execCall, hs, dite_true]
  exact execJp_eq nnn (s.push (s.pc + 2) hs)

/-- `JP V0` completed: the sum was in range (R107). -/
theorem execJpV0_next {nnn : Addr} {s t : State} (h : execJpV0 nnn s = .next t) :
    offsetTarget s nnn < 4096 ∧ t = { s with pc := BitVec.ofNat 16 (offsetTarget s nnn) } := State.jump_next h

/-- `ADD I, Vx` completed: the sum was in range (R141). -/
theorem execAddIndex_next {x : RegIx} {s t : State} (h : execAddIndex x s = .next t) :
    indexSum s x < 4096 ∧ t = ((s.setIdx (BitVec.ofNat 16 (indexSum s x))).setFlag (indexFlag s.idx)).advance := by
  by_cases hs : 4096 ≤ indexSum s x
  · simp only [execAddIndex, Config.memSize, ge_iff_le, hs, raise, if_true] at h; cases h
  · simp only [execAddIndex, Config.memSize, ge_iff_le, hs, if_false] at h
    injection h with h
    exact ⟨by omega, h.symm⟩

/-- `LD B, Vx` completed: its three bytes were in range (R143). -/
theorem execLdBcd_next {x : RegIx} {s t : State} (h : execLdBcd x s = .next t) :
    dataAddr s 0 + 3 ≤ 4096 ∧
      t = (s.setMem (((s.mem.write (dataAddr s 0) (bcdHundreds (s.reg x))).write (dataAddr s 1) (bcdTens (s.reg x))).write
        (dataAddr s 2) (bcdUnits (s.reg x)))).advance := by
  obtain ⟨hr, h⟩ := inRange_next h
  injection h with h
  exact ⟨hr, h.symm⟩

/-- `LD [I], Vx` completed: its bytes were in range (R144). -/
theorem execStoreRegs_next {x : RegIx} {s t : State} (h : execStoreRegs x s = .next t) :
    dataAddr s 0 + (x.toNat + 1) ≤ 4096 ∧ t = (s.setMem (s.storeBlock (dataAddr s 0) (x.toNat + 1))).advance := by
  obtain ⟨hr, h⟩ := inRange_next h
  injection h with h
  exact ⟨hr, h.symm⟩

/-- `LD Vx, [I]` completed: its bytes were in range (R145). -/
theorem execLoadRegs_next {x : RegIx} {s t : State} (h : execLoadRegs x s = .next t) :
    dataAddr s 0 + (x.toNat + 1) ≤ 4096 ∧ t = (s.loadBlock (dataAddr s 0) (x.toNat + 1)).advance := by
  obtain ⟨hr, h⟩ := inRange_next h
  injection h with h
  exact ⟨hr, h.symm⟩

/-- `DRW` completed: it had no row, or its bytes were in range (R151). -/
theorem execDrw_next {x y : RegIx} {n : Nibble} {s t : State} (h : execDrw x y n s = .next t) :
    (n = 0 ∨ dataAddr s 0 + n.toNat ≤ 4096) ∧
      t = ((s.setFb (drawSprite s (s.reg x) (s.reg y) (dataAddr s 0) n.toNat).fb).setFlag
        (drawSprite s (s.reg x) (s.reg y) (dataAddr s 0) n.toNat).hit).advance := by
  by_cases hn : n = 0
  · simp only [execDrw, hn, if_true] at h
    injection h with h
    exact ⟨.inl hn, by rw [hn]; exact h.symm⟩
  · simp only [execDrw, hn, if_false] at h
    obtain ⟨hr, h⟩ := inRange_next h
    injection h with h
    exact ⟨.inr hr, h.symm⟩

/-- `SKP` completed: the key index was in range (R160). -/
theorem execSkp_next {x : RegIx} {s t : State} (h : execSkp x s = .next t) :
    (s.reg x).toNat ≤ 15 ∧ t = s.skipIf (s.keyDown (s.reg x).toNat) := by
  by_cases hk : (s.reg x).toNat > 15
  · simp only [execSkp, hk, raise, if_true] at h; cases h
  · simp only [execSkp, hk, if_false] at h
    injection h with h
    exact ⟨by omega, h.symm⟩

/-- `SKNP` completed: the key index was in range (R161). -/
theorem execSknp_next {x : RegIx} {s t : State} (h : execSknp x s = .next t) :
    (s.reg x).toNat ≤ 15 ∧ t = s.skipIf (!s.keyDown (s.reg x).toNat) := by
  by_cases hk : (s.reg x).toNat > 15
  · simp only [execSknp, hk, raise, if_true] at h; cases h
  · simp only [execSknp, hk, if_false] at h
    injection h with h
    exact ⟨by omega, h.symm⟩

end Sys2Proof.Machine
end

