-- ==== Sys2Proof/Laws/Memory.lean ====
section
/-! SUPPORT. The laws of memory: reading after writing, and that every operation keeps the canonical form (log 4). -/

namespace Sys2Proof.Machine

/-! ### Reading -/

theorem Memory.read_filter_same (m : Memory) (a : Nat) :
    Memory.read (m.filter (fun c => c.1 != a)) a = Memory.unlisted a := by
  induction m with
  | nil => rfl
  | cons c m ih =>
    obtain ⟨k, b⟩ := c
    by_cases h : k = a
    · simpa [h] using ih
    · simp [h, Memory.read, ih]

theorem Memory.read_filter_other (m : Memory) (a q : Nat) (h : q ≠ a) :
    Memory.read (m.filter (fun c => c.1 != a)) q = Memory.read m q := by
  induction m with
  | nil => rfl
  | cons c m ih =>
    obtain ⟨k, b⟩ := c
    by_cases hk : k = a
    · subst hk
      simp [Memory.read, Ne.symm h, ih]
    · simp [hk, Memory.read, ih]

theorem Memory.read_insertCell_other (m : Memory) (a q : Nat) (b : Byte) (h : q ≠ a) :
    Memory.read (Memory.insertCell m a b) q = Memory.read m q := by
  induction m with
  | nil => simp [Memory.insertCell, Memory.read, Ne.symm h]
  | cons c m ih =>
    obtain ⟨k, d⟩ := c
    by_cases hk : a < k <;> simp [Memory.insertCell, hk, Memory.read, Ne.symm h, ih]

theorem Memory.read_insertCell_same (m : Memory) (a : Nat) (b : Byte) (h : ∀ c ∈ m, c.1 ≠ a) :
    Memory.read (Memory.insertCell m a b) a = b := by
  induction m with
  | nil => simp [Memory.insertCell, Memory.read]
  | cons c m ih =>
    obtain ⟨k, d⟩ := c
    have hk : k ≠ a := h (k, d) (by simp)
    have hm : ∀ c ∈ m, c.1 ≠ a := fun c hc => h c (by simp [hc])
    by_cases hlt : a < k <;> simp [Memory.insertCell, hlt, Memory.read, hk, ih hm]

/-- A read after a write: the written byte at the written address, the old byte elsewhere, in any memory (R45). -/
@[simp] theorem Memory.read_write (m : Memory) (a q : Nat) (b : Byte) :
    (m.write a b).read q = if q = a then b else m.read q := by
  unfold Memory.write
  by_cases hq : q = a
  · subst hq
    by_cases hb : b = Memory.unlisted q
    · simp [hb, Memory.read_filter_same]
    · simp only [hb, if_false, if_true]
      exact Memory.read_insertCell_same _ _ _ (by simp)
  · by_cases hb : b = Memory.unlisted a
    · simp [hb, hq, Memory.read_filter_other]
    · simp [hb, hq, Memory.read_insertCell_other, Memory.read_filter_other]

/-- Memory with nothing listed reads as R41 says. -/
@[simp] theorem Memory.read_nil (a : Nat) : Memory.read [] a = Memory.unlisted a := rfl

/-! ### The canonical form -/

theorem Memory.risesFrom_mono (m : Memory) (low low' : Nat) (h : low' ≤ low) (hm : Memory.risesFrom low m) :
    Memory.risesFrom low' m := by
  cases m with
  | nil => rfl
  | cons c m => simp only [Memory.risesFrom, Bool.and_eq_true, decide_eq_true_eq] at hm ⊢; exact ⟨by omega, hm.2⟩

theorem Memory.risesFrom_filter (m : Memory) (p : Host.Cell → Bool) (low : Nat) (hm : Memory.risesFrom low m) :
    Memory.risesFrom low (m.filter p) := by
  induction m generalizing low with
  | nil => rfl
  | cons c m ih =>
    simp only [Memory.risesFrom, Bool.and_eq_true, decide_eq_true_eq] at hm
    by_cases hp : p c
    · simp [hp, Memory.risesFrom, hm.1, ih _ hm.2]
    · simpa [hp] using Memory.risesFrom_mono _ _ _ (by omega) (ih _ hm.2)

theorem Memory.risesFrom_insertCell (m : Memory) (a low : Nat) (b : Byte) (hlow : low ≤ a)
    (hm : Memory.risesFrom low m) (hne : ∀ c ∈ m, c.1 ≠ a) : Memory.risesFrom low (Memory.insertCell m a b) := by
  induction m generalizing low with
  | nil => simp [Memory.insertCell, Memory.risesFrom, hlow]
  | cons c m ih =>
    obtain ⟨k, d⟩ := c
    have hk : k ≠ a := hne (k, d) (by simp)
    simp only [Memory.risesFrom, Bool.and_eq_true, decide_eq_true_eq] at hm
    by_cases hlt : a < k
    · simp [Memory.insertCell, hlt, Memory.risesFrom, hlow, hm.2]
    · simp only [Memory.insertCell, hlt, if_false, Memory.risesFrom, Bool.and_eq_true, decide_eq_true_eq]
      exact ⟨hm.1, ih _ (by omega) hm.2 (fun c hc => hne c (by simp [hc]))⟩

theorem Memory.mem_insertCell (m : Memory) (a : Nat) (b : Byte) (c : Host.Cell) :
    c ∈ Memory.insertCell m a b ↔ c = (a, b) ∨ c ∈ m := by
  induction m with
  | nil => simp [Memory.insertCell]
  | cons d m ih =>
    by_cases hlt : a < d.1
    · simp [Memory.insertCell, hlt]
    · simp only [Memory.insertCell, hlt, if_false, List.mem_cons, ih]; tauto

/-- A write inside the address space keeps the canonical form. -/
theorem Memory.wf_write (m : Memory) (a : Nat) (b : Byte) (ha : a < 4096) (hm : m.wf) : (m.write a b).wf := by
  simp only [Memory.wf, Bool.and_eq_true, List.all_eq_true, decide_eq_true_eq] at hm
  obtain ⟨hrise, hall⟩ := hm
  by_cases hb : b = Memory.unlisted a
  · simp only [Memory.write, hb, if_true, Memory.wf, Bool.and_eq_true, List.all_eq_true, decide_eq_true_eq]
    exact ⟨Memory.risesFrom_filter _ _ _ hrise, fun c hc => hall c (List.mem_filter.mp hc).1⟩
  · simp only [Memory.write, hb, if_false, Memory.wf, Bool.and_eq_true, List.all_eq_true, decide_eq_true_eq]
    refine ⟨Memory.risesFrom_insertCell _ _ _ _ (Nat.zero_le _) (Memory.risesFrom_filter _ _ _ hrise) (by simp), ?_⟩
    intro c hc
    rcases (Memory.mem_insertCell _ _ _ _).mp hc with rfl | h
    · exact ⟨ha, by simpa using hb⟩
    · exact hall c (List.mem_filter.mp h).1

/-- Memory with nothing listed is canonical, so the memory of the reset state is. -/
theorem Memory.wf_reset : State.reset.mem.wf := rfl

/-! ### Blocks -/

/-- What a stored register block reads as: register `k` at `base + k` for each of the `count` registers, the old byte elsewhere (R144). -/
theorem State.read_storeBlock (s : State) (base count a : Nat) :
    (s.storeBlock base count).read a =
      if base ≤ a ∧ a < base + count then s.reg (BitVec.ofNat 4 (a - base)) else s.byteAt a := by
  induction count with
  | zero => simp only [State.storeBlock, State.byteAt]; split_ifs <;> first | rfl | omega
  | succ k ih =>
    simp only [State.storeBlock, Memory.read_write, ih]
    by_cases h : a = base + k
    · subst h
      simp
    · simp only [h, if_false]
      congr 1
      simp only [eq_iff_iff]
      omega

/-- A block stored inside the address space keeps the canonical form. -/
theorem State.wf_storeBlock (s : State) (base count : Nat) (h : base + count ≤ 4096) (hm : s.mem.wf) :
    (s.storeBlock base count).wf := by
  induction count with
  | zero => exact hm
  | succ k ih => exact Memory.wf_write _ _ _ (by omega) (ih (by omega))

/-- What a loaded register block holds: register `k` the byte at `base + k` for each of the `count` registers, the others as before (R145). -/
theorem State.reg_loadBlock (s : State) (base count : Nat) (r : RegIx) (h : count ≤ 16) :
    (s.loadBlock base count).reg r = if r.toNat < count then s.byteAt (base + r.toNat) else s.reg r := by
  induction count with
  | zero => rfl
  | succ k ih =>
    have hk : (BitVec.ofNat 4 k).toNat = k := by simp; omega
    have hr : r = BitVec.ofNat 4 k ↔ r.toNat = k := by rw [← BitVec.toNat_inj, hk]
    simp only [State.loadBlock, State.setReg_reg, ih (by omega), hr]
    by_cases h1 : r.toNat = k
    · simp [h1]
    · have : r.toNat < k + 1 ↔ r.toNat < k := by omega
      simp [h1, this]

/-- A block load changes registers only: it is the state with other registers. -/
theorem State.loadBlock_eq (s : State) (base count : Nat) :
    s.loadBlock base count = { s with v := (s.loadBlock base count).v } := by
  induction count with
  | zero => rfl
  | succ k ih => simp only [State.loadBlock]; rw [ih]; rfl

/-! ### Initialisation -/

/-- What memory reads as after bytes are loaded at `a` upward: the image where it lies inside memory, the old byte elsewhere (R53). -/
theorem read_loadBytes (bytes : List Byte) (m : Memory) (a q : Nat) :
    (loadBytes m a bytes).read q =
      if a ≤ q ∧ q < 4096 then bytes.getD (q - a) (m.read q) else m.read q := by
  induction bytes generalizing m a with
  | nil => simp [loadBytes]
  | cons b bs ih =>
    by_cases ha : a < Config.memSize
    · simp only [loadBytes, ha, if_true, ih, Memory.read_write]
      by_cases hq : q = a
      · subst hq
        simp [ha]
      · simp only [hq, if_false]
        by_cases h : a + 1 ≤ q ∧ q < Config.memSize
        · have h2 : a ≤ q ∧ q < Config.memSize := by omega
          have h3 : q - a = q - (a + 1) + 1 := by omega
          simp only [h, h2, h3, List.getD_cons_succ]
        · have h2 : ¬ (a ≤ q ∧ q < Config.memSize) := by omega
          simp only [h, h2, if_false]
    · simp only [loadBytes, ha, if_false]
      have h2 : ¬ (a ≤ q ∧ q < Config.memSize) := by omega
      simp only [h2, if_false]

/-- Loading keeps the canonical form. -/
theorem wf_loadBytes (bytes : List Byte) (m : Memory) (a : Nat) (hm : m.wf) : (loadBytes m a bytes).wf := by
  induction bytes generalizing m a with
  | nil => exact hm
  | cons b bs ih =>
    by_cases ha : a < Config.memSize
    · simp only [loadBytes, ha, if_true]; exact ih _ _ (Memory.wf_write _ _ _ ha hm)
    · simpa only [loadBytes, ha, if_false] using hm

end Sys2Proof.Machine
end

