-- ==== Sys2Proof/Laws/PerInstr.lean ====
section
/-! SUPPORT. A statement made per instruction: its encoding lies in its own row of the opcode map (spec/30_encoding.md R64). -/

namespace Sys2Proof.Laws.OpcodeRow

/-- The word of a well-formed instruction matches its row: `op & mask = match` (R64). -/
def Statement (i : Instr) : Prop := i.wellFormed = true → encode i &&& (opcodeRow i).2 = (opcodeRow i).1

/-- The mask that leaves the high nibble. -/
theorem packNNN_row (h : Nibble) (nnn : Addr) : packNNN h nnn &&& 0xF000 = packNNN h 0 := by
  apply BitVec.eq_of_getLsbD_eq; intro i hi
  interval_cases i <;> simp only [packNNN, BitVec.getLsbD_and, BitVec.getLsbD_append] <;> simp

theorem packXKK_row_high (h : Nibble) (x : RegIx) (kk : Byte) : packXKK h x kk &&& 0xF000 = packXKK h 0 0 := by
  apply BitVec.eq_of_getLsbD_eq; intro i hi
  interval_cases i <;> simp only [packXKK, BitVec.getLsbD_and, BitVec.getLsbD_append] <;> simp

/-- The mask that leaves the high nibble and the low byte. -/
theorem packXKK_row_byte (h : Nibble) (x : RegIx) (kk : Byte) : packXKK h x kk &&& 0xF0FF = packXKK h 0 kk := by
  apply BitVec.eq_of_getLsbD_eq; intro i hi
  interval_cases i <;> simp only [packXKK, BitVec.getLsbD_and, BitVec.getLsbD_append] <;> simp

theorem pack_row_high (h : Nibble) (x y : RegIx) (n : Nibble) : pack h x y n &&& 0xF000 = pack h 0 0 0 := by
  apply BitVec.eq_of_getLsbD_eq; intro i hi
  interval_cases i <;> simp only [pack, BitVec.getLsbD_and, BitVec.getLsbD_append] <;> simp

/-- The mask that leaves the high and the low nibble. -/
theorem pack_row_nibbles (h : Nibble) (x y : RegIx) (n : Nibble) : pack h x y n &&& 0xF00F = pack h 0 0 n := by
  apply BitVec.eq_of_getLsbD_eq; intro i hi
  interval_cases i <;> simp only [pack, BitVec.getLsbD_and, BitVec.getLsbD_append] <;> simp

theorem cls : Statement .cls := fun _ => rfl
theorem ret : Statement .ret := fun _ => rfl
theorem jp (nnn : Addr) : Statement (.jp nnn) := fun _ => packNNN_row 0x1 nnn
theorem call (nnn : Addr) : Statement (.call nnn) := fun _ => packNNN_row 0x2 nnn
theorem seImm (x : RegIx) (kk : Byte) : Statement (.seImm x kk) := fun _ => packXKK_row_high 0x3 x kk
theorem sneImm (x : RegIx) (kk : Byte) : Statement (.sneImm x kk) := fun _ => packXKK_row_high 0x4 x kk
theorem seReg (x y : RegIx) (ign : Nibble) : Statement (.seReg x y ign) := fun _ => pack_row_high 0x5 x y ign
theorem ldImm (x : RegIx) (kk : Byte) : Statement (.ldImm x kk) := fun _ => packXKK_row_high 0x6 x kk
theorem addImm (x : RegIx) (kk : Byte) : Statement (.addImm x kk) := fun _ => packXKK_row_high 0x7 x kk
theorem ldReg (x y : RegIx) : Statement (.ldReg x y) := fun _ => pack_row_nibbles 0x8 x y 0x0
theorem orReg (x y : RegIx) : Statement (.orReg x y) := fun _ => pack_row_nibbles 0x8 x y 0x1
theorem andReg (x y : RegIx) : Statement (.andReg x y) := fun _ => pack_row_nibbles 0x8 x y 0x2
theorem xorReg (x y : RegIx) : Statement (.xorReg x y) := fun _ => pack_row_nibbles 0x8 x y 0x3
theorem addReg (x y : RegIx) : Statement (.addReg x y) := fun _ => pack_row_nibbles 0x8 x y 0x4
theorem subReg (x y : RegIx) : Statement (.subReg x y) := fun _ => pack_row_nibbles 0x8 x y 0x5
theorem shr (x : RegIx) (ign : Nibble) : Statement (.shr x ign) := fun _ => pack_row_nibbles 0x8 x ign 0x6
theorem subnReg (x y : RegIx) : Statement (.subnReg x y) := fun _ => pack_row_nibbles 0x8 x y 0x7
theorem shl (x : RegIx) (ign : Nibble) : Statement (.shl x ign) := fun _ => pack_row_nibbles 0x8 x ign 0xE
theorem sneReg (x y : RegIx) (ign : Nibble) : Statement (.sneReg x y ign) := fun _ => pack_row_high 0x9 x y ign
theorem ldIndex (nnn : Addr) : Statement (.ldIndex nnn) := fun _ => packNNN_row 0xA nnn
theorem jpV0 (nnn : Addr) : Statement (.jpV0 nnn) := fun _ => packNNN_row 0xB nnn
theorem rnd (x : RegIx) (kk : Byte) : Statement (.rnd x kk) := fun _ => packXKK_row_high 0xC x kk
theorem drw (x y : RegIx) (n : Nibble) : Statement (.drw x y n) := fun _ => pack_row_high 0xD x y n
theorem skp (x : RegIx) : Statement (.skp x) := fun _ => packXKK_row_byte 0xE x 0x9E
theorem sknp (x : RegIx) : Statement (.sknp x) := fun _ => packXKK_row_byte 0xE x 0xA1
theorem ldRegDt (x : RegIx) : Statement (.ldRegDt x) := fun _ => packXKK_row_byte 0xF x 0x07
theorem ldRegKey (x : RegIx) : Statement (.ldRegKey x) := fun _ => packXKK_row_byte 0xF x 0x0A
theorem ldDtReg (x : RegIx) : Statement (.ldDtReg x) := fun _ => packXKK_row_byte 0xF x 0x15
theorem ldStReg (x : RegIx) : Statement (.ldStReg x) := fun _ => packXKK_row_byte 0xF x 0x18
theorem addIndex (x : RegIx) : Statement (.addIndex x) := fun _ => packXKK_row_byte 0xF x 0x1E
theorem ldFont (x : RegIx) : Statement (.ldFont x) := fun _ => packXKK_row_byte 0xF x 0x29
theorem ldBcd (x : RegIx) : Statement (.ldBcd x) := fun _ => packXKK_row_byte 0xF x 0x33
theorem storeRegs (x : RegIx) : Statement (.storeRegs x) := fun _ => packXKK_row_byte 0xF x 0x55
theorem loadRegs (x : RegIx) : Statement (.loadRegs x) := fun _ => packXKK_row_byte 0xF x 0x65
theorem unknown (op : Word) : Statement (.unknown op) := fun _ => BitVec.and_zero

end Sys2Proof.Laws.OpcodeRow
end

