-- ==== Sys2Proof/Tests/Slice0.lean ====
section
/-! SUPPORT. The model's own tests: well-formedness, decoding and single steps, with results from spec/95_test_vectors.md (the vector is named at each test), and after them one witness for the hypotheses of each obligation that has any. -/

namespace Sys2Proof.Tests

open Sys2Proof Sys2Proof.Machine

/-! ### WellFormed: an ill-formed term for each disjunct of the check (R65) -/

theorem test_wf_refuses_family0 : (Instr.unknown 0x00E0).wellFormed = false ∧ (Instr.unknown 0x00EE).wellFormed = false := by decide
theorem test_wf_refuses_family8 : (Instr.unknown 0x8126).wellFormed = false ∧ (Instr.unknown 0x812E).wellFormed = false := by decide
theorem test_wf_refuses_familyE : (Instr.unknown 0xE19E).wellFormed = false ∧ (Instr.unknown 0xE1A1).wellFormed = false := by decide
theorem test_wf_refuses_familyF : (Instr.unknown 0xF107).wellFormed = false ∧ (Instr.unknown 0xF165).wellFormed = false := by decide
theorem test_wf_refuses_other_families : (Instr.unknown 0x1204).wellFormed = false ∧ (Instr.unknown 0xD125).wellFormed = false := by decide
theorem test_wf_accepts : [0x0000#16, 0x0FEE, 0x8128, 0x812F, 0xE19F, 0xF1FF].all (fun w => (Instr.unknown w).wellFormed) = true := by
  decide

/-! ### Decode: a word written out from the opcode map for every constructor -/

theorem test_decode_cls : decode 0x00E0 = .cls := by decide
theorem test_decode_ret : decode 0x00EE = .ret := by decide
theorem test_decode_jp : decode 0x1204 = .jp 0x204 := by decide
theorem test_decode_call : decode 0x220A = .call 0x20A := by decide
theorem test_decode_seImm : decode 0x3A07 = .seImm 10 7 := by decide
theorem test_decode_sneImm : decode 0x4A07 = .sneImm 10 7 := by decide
theorem test_decode_seReg : decode 0x5120 = .seReg 1 2 0 ∧ decode 0x512F = .seReg 1 2 15 := by decide
theorem test_decode_ldImm : decode 0x6005 = .ldImm 0 5 := by decide
theorem test_decode_addImm : decode 0x700A = .addImm 0 10 := by decide
theorem test_decode_ldReg : decode 0x8120 = .ldReg 1 2 := by decide
theorem test_decode_orReg : decode 0x8121 = .orReg 1 2 := by decide
theorem test_decode_andReg : decode 0x8122 = .andReg 1 2 := by decide
theorem test_decode_xorReg : decode 0x8123 = .xorReg 1 2 := by decide
theorem test_decode_addReg : decode 0x8124 = .addReg 1 2 := by decide
theorem test_decode_subReg : decode 0x8125 = .subReg 1 2 := by decide
theorem test_decode_shr : decode 0x8126 = .shr 1 2 ∧ decode 0x81F6 = .shr 1 15 := by decide
theorem test_decode_subnReg : decode 0x8127 = .subnReg 1 2 := by decide
theorem test_decode_shl : decode 0x812E = .shl 1 2 ∧ decode 0x810E = .shl 1 0 := by decide
theorem test_decode_sneReg : decode 0x9AB0 = .sneReg 10 11 0 ∧ decode 0x9AB7 = .sneReg 10 11 7 := by decide
theorem test_decode_ldIndex : decode 0xA300 = .ldIndex 0x300 := by decide
theorem test_decode_jpV0 : decode 0xBFFF = .jpV0 0xFFF := by decide
theorem test_decode_rnd : decode 0xC10F = .rnd 1 0x0F := by decide
theorem test_decode_drw : decode 0xD125 = .drw 1 2 5 := by decide
theorem test_decode_skp : decode 0xE19E = .skp 1 := by decide
theorem test_decode_sknp : decode 0xE1A1 = .sknp 1 := by decide
theorem test_decode_ldRegDt : decode 0xF107 = .ldRegDt 1 := by decide
theorem test_decode_ldRegKey : decode 0xF10A = .ldRegKey 1 := by decide
theorem test_decode_ldDtReg : decode 0xF115 = .ldDtReg 1 := by decide
theorem test_decode_ldStReg : decode 0xF118 = .ldStReg 1 := by decide
theorem test_decode_addIndex : decode 0xF11E = .addIndex 1 := by decide
theorem test_decode_ldFont : decode 0xF129 = .ldFont 1 := by decide
theorem test_decode_ldBcd : decode 0xF133 = .ldBcd 1 := by decide
theorem test_decode_storeRegs : decode 0xF155 = .storeRegs 1 := by decide
theorem test_decode_loadRegs : decode 0xF165 = .loadRegs 1 := by decide

/-- TE3, TE8, TE10, TE12. -/
theorem test_decode_unknown :
    [0x0000#16, 0x00E1, 0x00FE, 0x01E0, 0x0FEE, 0x0123, 0x8128, 0x8129, 0x812A, 0x812B, 0x812C, 0x812D, 0x812F, 0xE000, 0xE19F,
      0xE1A0, 0xE09D, 0xF100, 0xF1FF, 0xF11F, 0xF175, 0xF185, 0xF130].all (fun w => decode w == .unknown w) = true := by decide

/-- TE15: the fields of 0xD125. -/
theorem test_fields : fieldH 0xD125 = 0xD ∧ fieldX 0xD125 = 1 ∧ fieldY 0xD125 = 2 ∧ fieldN 0xD125 = 5 ∧ fieldKK 0xD125 = 0x25 ∧
    fieldNNN 0xD125 = 0x125 := by decide

theorem test_decodeBytes : decodeBytes [0x60, 0x05, 0x70] = .ok (.ldImm 0 5, [0x70]) ∧ decodeBytes [0x60] = .error .truncated ∧
    decodeBytes [] = .error .truncated := by decide

/-- The table's numbering of one word (D125 as the host numbers it). -/
theorem test_decodeTableWord : decodeTableWord 16 0xD125 = some (.drw 1 2 5) ∧ decodeTableWord 16 0x00EE = some .ret := by decide

/-! ### Single steps -/

/-- Reset with `op` at 0x200 and one input presented. -/
def start (op : Word) (keys : BitVec 16 := 0) (rnd : Byte := 0) : State :=
  { State.reset.placeWord op with inputs := [{ keys := keys, rnd := rnd }] }

/-- A register set beforehand. -/
def withReg (s : State) (r : RegIx) (b : Byte) : State := s.setReg r b

/-- One byte put into memory beforehand. -/
def withByte (s : State) (a : Nat) (b : Byte) : State := s.setMem (s.mem.write a b)

/-- One pixel set beforehand, on a clear framebuffer. -/
def withPixel (s : State) (col : Fin 64) (row : Fin 32) : State := { s with fb := Frame.blank.flipPixel col row }

/-- What `f` reads after one step, if the step completes. -/
def after {α : Type} (s : State) (f : State → α) : Option α :=
  match step s with
  | .next t => some (f t)
  | .fault _ => none
  | .refused _ => none

/-- The fault of one step, if it faults. -/
def faultAfter (s : State) : Option Fault :=
  match step s with
  | .next _ => none
  | .fault f => some f
  | .refused _ => none

/-- TC1. -/
theorem test_jp : after (start 0x1204) (·.pc) = some 0x204 := by decide
/-- TC6. -/
theorem test_call : after { start 0x2300 with sp := 15 } (fun t => (t.stack[15], t.sp, t.pc)) = some (0x202, 16, 0x300) := by decide
/-- TC7. -/
theorem test_call_full : faultAfter { start 0x2300 with sp := 16 } = some .stackOverflow := by decide
/-- TC8. -/
theorem test_ret : after { start 0x00EE with sp := 1, stack := Vector.replicate 16 0x206 } (fun t => (t.sp, t.pc, t.stack[0])) =
    some (0, 0x206, 0x206) := by decide
/-- TC9, TC10. -/
theorem test_ret_faults : faultAfter (start 0x00EE) = some .stackUnderflow ∧
    faultAfter { start 0x00EE with sp := 1, stack := Vector.replicate 16 0x1000 } = some (.outOfRange 0x1000) := by decide
/-- TC11. -/
theorem test_seImm : after (start 0x3100) (·.pc) = some 0x204 ∧ after (withReg (start 0x3100) 1 4) (·.pc) = some 0x202 := by decide
/-- TC12. -/
theorem test_sneImm : after (withReg (start 0x4A07) 10 7) (·.pc) = some 0x202 ∧
    after (withReg (start 0x4A07) 10 8) (·.pc) = some 0x204 := by decide
/-- TC13. -/
theorem test_seReg : after (withReg (withReg (start 0x5120) 1 9) 2 9) (·.pc) = some 0x204 ∧
    after (withReg (withReg (start 0x5120) 1 9) 2 8) (·.pc) = some 0x202 := by decide
/-- TC15. -/
theorem test_sneReg : after (withReg (withReg (start 0x9120) 1 9) 2 9) (·.pc) = some 0x202 ∧
    after (withReg (withReg (start 0x9120) 1 9) 2 8) (·.pc) = some 0x204 := by decide
/-- TC18, TC21. -/
theorem test_jpV0 : after (withReg (start 0xB300) 0 0x10) (·.pc) = some 0x310 ∧
    after (withReg (start 0xBF00) 0 0xFF) (·.pc) = some 0xFFF := by decide
/-- TC19, TC20. -/
theorem test_jpV0_fault : faultAfter (withReg (start 0xBF01) 0 0xFF) = some (.outOfRange 0x1000) ∧
    faultAfter (withReg (start 0xBFFF) 0 1) = some (.outOfRange 0x1000) := by decide

/-- TA1, and the source's first step. -/
theorem test_ldImm : after (start 0x6AFF) (·.reg 10) = some 0xFF ∧ after (start 0x6005) (fun t => (t.reg 0, t.pc)) = some (5, 0x202) := by
  decide
/-- TA3, TA5. -/
theorem test_addImm : after (withReg (start 0x7001) 0 0xFF) (fun t => (t.reg 0, t.reg 15)) = some (0, 0) ∧
    after (start 0x7FFF) (·.reg 15) = some 0xFF := by decide
/-- TA6. -/
theorem test_ldReg : after (withReg (start 0x8120) 2 0x7B) (·.reg 1) = some 0x7B := by decide
/-- TA7. -/
theorem test_orReg : after (withReg (withReg (withReg (start 0x8121) 1 0xF0) 2 0x0F) 15 1) (fun t => (t.reg 1, t.reg 15)) =
    some (0xFF, 1) := by decide
/-- TA8. -/
theorem test_andReg : after (withReg (withReg (start 0x8122) 1 0xF0) 2 0x3C) (·.reg 1) = some 0x30 := by decide
/-- TA9. -/
theorem test_xorReg : after (withReg (withReg (start 0x8123) 1 0xF0) 2 0x3C) (·.reg 1) = some 0xCC := by decide
/-- TA14. -/
theorem test_addReg : after (withReg (withReg (withReg (start 0x8014) 0 0x80) 1 0x7F) 15 1) (fun t => (t.reg 0, t.reg 15)) =
    some (0xFF, 0) := by decide
/-- TA16, TA17. -/
theorem test_addReg_flag_last : after (withReg (withReg (start 0x8F14) 15 200) 1 100) (·.reg 15) = some 1 ∧
    after (withReg (withReg (start 0x81F4) 1 10) 15 1) (fun t => (t.reg 1, t.reg 15)) = some (11, 0) := by decide
/-- TA19, TA21. -/
theorem test_subReg : after (withReg (withReg (start 0x8015) 0 5) 1 7) (fun t => (t.reg 0, t.reg 15)) = some (0xFE, 0) ∧
    after (withReg (withReg (start 0x8015) 0 7) 1 7) (fun t => (t.reg 0, t.reg 15)) = some (0, 1) := by decide
/-- TA24, TA26. -/
theorem test_subnReg : after (withReg (withReg (start 0x8017) 0 5) 1 7) (fun t => (t.reg 0, t.reg 15)) = some (2, 1) ∧
    after (withReg (withReg (start 0x8F17) 15 5) 1 7) (·.reg 15) = some 1 := by decide
/-- TA28. -/
theorem test_shr : after (withReg (withReg (start 0x8126) 1 0xFF) 2 0x55) (fun t => (t.reg 1, t.reg 2, t.reg 15)) =
    some (0x7F, 0x55, 1) := by decide
/-- TA32, TA34. -/
theorem test_shl : after (withReg (withReg (start 0x812E) 1 0x7F) 15 1) (fun t => (t.reg 1, t.reg 15)) = some (0xFE, 0) ∧
    after (withReg (start 0x8F0E) 15 0x81) (·.reg 15) = some 1 := by decide
/-- TA35, TA38. -/
theorem test_rnd : after (start 0xC10F 0 0xA7) (·.reg 1) = some 0x07 ∧ after (start 0xCF55 0 0xFF) (·.reg 15) = some 0x55 := by decide

/-- TM2. -/
theorem test_ldIndex : after (start 0xAFFF) (fun t => (t.idx, t.pc)) = some (0xFFF, 0x202) := by decide
/-- TM5, TM6. -/
theorem test_addIndex : after (withReg (withReg { start 0xF11E with idx := 0xF00 } 1 0xFF) 15 1) (fun t => (t.idx, t.reg 15)) =
      some (0xFFF, 0) ∧
    after { start 0xF11E with idx := 0xF01 } (fun t => (t.idx, t.reg 15)) = some (0xF01, 1) := by decide
/-- TM8, TM10. -/
theorem test_addIndex_edges : faultAfter (withReg { start 0xF11E with idx := 0xF01 } 1 0xFF) = some (.outOfRange 0x1000) ∧
    after (withReg { start 0xFF1E with idx := 0xF80 } 15 1) (fun t => (t.idx, t.reg 15)) = some (0xF81, 1) := by decide
/-- TM11. -/
theorem test_ldFont : after (withReg (start 0xF029) 0 15) (·.idx) = some 0x4B ∧
    after (withReg (start 0xF029) 0 255) (·.idx) = some 0x4FB := by decide
/-- TM13. -/
theorem test_ldBcd : after (withReg { start 0xF033 with idx := 0xFFD } 0 254)
    (fun t => (t.byteAt 0xFFD, t.byteAt 0xFFE, t.byteAt 0xFFF)) = some (2, 5, 4) := by decide
/-- TM14. -/
theorem test_ldBcd_fault : faultAfter (withReg { start 0xF033 with idx := 0xFFE } 0 254) = some (.outOfRange 0x1000) := by decide
/-- TM17 (two of its sixteen bytes). -/
theorem test_storeRegs : after (withReg (withReg { start 0xFF55 with idx := 0xFF0 } 0 0x10) 15 0x1F)
    (fun t => (t.byteAt 0xFF0, t.byteAt 0xFFF, t.idx)) = some (0x10, 0x1F, 0xFF0) := by decide
/-- TM16, TM18. -/
theorem test_storeRegs_edges : after (withReg (withReg { start 0xF055 with idx := 0x400 } 0 0x10) 1 0x11)
      (fun t => (t.byteAt 0x400, t.byteAt 0x401)) = some (0x10, 0) ∧
    faultAfter { start 0xFF55 with idx := 0xFF1 } = some (.outOfRange 0x1000) := by decide
/-- TM19. -/
theorem test_loadRegs : after (withReg (start 0xF465) 5 0x77) (fun t => (t.reg 0, t.reg 1, t.reg 4, t.reg 5, t.idx)) =
    some (0xF0, 0x90, 0xF0, 0x77, 0) := by decide
/-- TM20 (boundary), TM21. -/
theorem test_loadRegs_edges : after (withByte { start 0xF465 with idx := 0xFFB } 0xFFF 5) (·.reg 4) = some 5 ∧
    faultAfter { start 0xF465 with idx := 0xFFC } = some (.outOfRange 0x1000) := by decide

/-- TD9. -/
theorem test_cls : after (withPixel (start 0x00E0) 1 1) (fun t => (t.pixel 1 1, t.chg)) = some (false, true) := by decide
/-- TD2, TD1. -/
theorem test_drw_collision : after (withPixel (withByte { start 0xD011 with idx := 0x300 } 0x300 0xC0) 1 0)
      (fun t => (t.pixel 0 0, t.pixel 1 0, t.reg 15, t.chg)) = some (true, false, 1, true) ∧
    after (withPixel (withByte { start 0xD011 with idx := 0x300 } 0x300 0x80) 1 0)
      (fun t => (t.pixel 0 0, t.pixel 1 0, t.reg 15)) = some (true, true, 0) := by decide
/-- TD5. -/
theorem test_drw_wraps : after (withReg (withReg (withByte { start 0xD011 with idx := 0x300 } 0x300 0xFF) 0 0xFF) 1 0xFF)
    (fun t => (t.pixel 63 31, t.pixel 0 31, t.pixel 6 31, t.pixel 7 31, t.pixel 0 0)) =
      some (true, true, true, false, false) := by decide

/-- TK1, TK2. -/
theorem test_skp : after (withReg (start 0xE19E 0x0080) 1 7) (·.pc) = some 0x204 ∧
    after (withReg (start 0xE19E 0) 1 7) (·.pc) = some 0x202 := by decide
/-- TK5. -/
theorem test_skp_fault : faultAfter (withReg (start 0xE09E) 0 16) = some (.keyIndexOutOfRange 16) := by decide
/-- TK4, TK3. -/
theorem test_sknp : after (withReg (start 0xE1A1 0x8000) 1 15) (·.pc) = some 0x202 ∧
    after (withReg (start 0xE1A1 0xFF7F) 1 7) (·.pc) = some 0x204 := by decide
/-- TK6. -/
theorem test_sknp_fault : faultAfter (withReg (start 0xE0A1) 0 0xFF) = some (.keyIndexOutOfRange 255) := by decide
/-- TK7, TK8. -/
theorem test_ldRegDt : after { start 0xF407 with dt := 7 } (fun t => (t.reg 4, t.dt)) = some (6, 6) ∧
    after (start 0xF407) (fun t => (t.reg 4, t.dt)) = some (0, 0) := by decide
/-- T2 step 3: the keys of the instruction's own step are not scanned. -/
theorem test_ldRegKey : after (start 0xFF0A 0x0008) (fun t => (t.wait, t.wreg, t.pc, t.reg 15)) = some (true, 15, 0x202, 0) := by decide
/-- T2 step 6: keys 9 and 15 down, the timer frozen. -/
theorem test_waiting_step : after { start 0 0x8200 with wait := true, wreg := 15, dt := 4 }
    (fun t => (t.reg 15, t.wait, t.dt, t.pc)) = some (9, false, 4, 0x200) := by decide
/-- TK9. -/
theorem test_ldDtReg : after (withReg { start 0xF315 with dt := 200 } 3 7) (·.dt) = some 7 := by decide
/-- TK10, its first step. -/
theorem test_ldStReg : after (withReg (start 0xF218) 2 30) (·.st) = some 30 := by decide
/-- TU1. -/
theorem test_unknown : after { start 0xE000 with dt := 2 } (fun t => (t.pc, t.unknownOut, t.dt, t.chg)) =
    some (0x202, some 0xE000, 1, false) := by decide
/-- TU6, TU7. -/
theorem test_fetch_faults : faultAfter { start 0 with pc := 0x1000 } = some (.outOfRange 0x1000) ∧
    faultAfter { start 0 with pc := 0xFFF } = some (.outOfRange 0x1000) := by decide
/-- TU2: from reset with nothing placed, the first step executes UNKNOWN 0x0000. -/
theorem test_first_step : after State.reset (fun t => (t.pc, t.unknownOut)) = some (0x202, some 0) := by decide
/-- A placed word is the first instruction after reset, with free inputs. -/
theorem test_withFetchWord : (State.reset.withFetchWord 16 0xD125).nextInstr = some (.drw 1 2 5) ∧
    after (State.reset.withFetchWord 16 0x6AFF) (·.reg 10) = some 0xFF ∧
    ({ State.reset with wait := true, pc := 0xFFF }.withFetchWord 16 0x00EE).nextInstr = some .ret := by decide
/-- TE16. -/
theorem test_fetch_big_endian : (withByte (withByte State.reset 0x200 0x12) 0x201 0x34).fetch = .ok 0x1234 := by decide
/-- TM3, at the end of memory: the byte past it is dropped. -/
theorem test_load_stops_at_end : loadBytes [] 4095 [1, 2] = [(4095, 1)] := by decide
/-- A memory is equal data however it came about: writing the unlisted value back removes the cell. -/
theorem test_memory_canonical : (withByte (withByte State.reset 0 0x12) 0 0xF0).mem = [] := by decide

/-! ### Witnesses: for each obligation with hypotheses, concrete values that meet them, each clause at a boundary -/

theorem witness_DecodeOfEncodeIsIdentity : (Instr.unknown 0xE000).wellFormed = true ∧ (Instr.seReg 1 2 15).wellFormed = true := by
  decide

/-- One word for each row of the opcode map, in its order. -/
theorem witness_DecodeFollowsOpcodeMap :
    ([(0x1204, 0xF000, 0x1000), (0x220A, 0xF000, 0x2000), (0x3100, 0xF000, 0x3000), (0x4A07, 0xF000, 0x4000),
      (0x512F, 0xF000, 0x5000), (0x6005, 0xF000, 0x6000), (0x700A, 0xF000, 0x7000), (0x8120, 0xF00F, 0x8000),
      (0x8121, 0xF00F, 0x8001), (0x8122, 0xF00F, 0x8002), (0x8123, 0xF00F, 0x8003), (0x8124, 0xF00F, 0x8004),
      (0x8125, 0xF00F, 0x8005), (0x81F6, 0xF00F, 0x8006), (0x8127, 0xF00F, 0x8007), (0x812E, 0xF00F, 0x800E),
      (0x9AB7, 0xF000, 0x9000), (0xA300, 0xF000, 0xA000), (0xBFFF, 0xF000, 0xB000), (0xC10F, 0xF000, 0xC000),
      (0xD125, 0xF000, 0xD000), (0xE19E, 0xF0FF, 0xE09E), (0xE1A1, 0xF0FF, 0xE0A1), (0xF107, 0xF0FF, 0xF007),
      (0xF10A, 0xF0FF, 0xF00A), (0xF115, 0xF0FF, 0xF015), (0xF118, 0xF0FF, 0xF018), (0xF11E, 0xF0FF, 0xF01E),
      (0xF129, 0xF0FF, 0xF029), (0xF133, 0xF0FF, 0xF033), (0xF155, 0xF0FF, 0xF055), (0xFF65, 0xF0FF, 0xF065)] :
        List (Word × Word × Word)).all (fun r => r.1 &&& r.2.1 == r.2.2) = true := by decide

/-- The last font byte, the first byte after it, the last byte below the image, the image, the last byte of memory. -/
theorem witness_InitLoadsFontAndImage :
    (State.init defaultFont [0x60, 0x05]).byteAt 79 = 0x80 ∧ (State.init defaultFont [0x60, 0x05]).byteAt 80 = 0 ∧
      (State.init defaultFont [0x60, 0x05]).byteAt 0x1FF = 0 ∧ (State.init defaultFont [0x60, 0x05]).byteAt 0x200 = 0x60 ∧
      (State.init defaultFont [0x60, 0x05]).byteAt 0x201 = 0x05 ∧ (State.init defaultFont [0x60, 0x05]).byteAt 4095 = 0 := by
  set_option maxRecDepth 10000 in decide

theorem witness_StepTakesTheHostsInput :
    (start 0x6005 3 4).inputs = { keys := 3, rnd := 4 } :: [] ∧ State.reset.inputs = [] := by decide

/-- The reset state, and the last address a word can be fetched from. -/
theorem witness_RunningStepRunsTheDecodedInstruction :
    (State.reset.wait = false ∧ State.reset.pc.toNat + 1 < 4096) ∧
      ({ start 0x6005 with pc := 0xFFE }.wait = false ∧ { start 0x6005 with pc := 0xFFE }.pc.toNat + 1 < 4096) := by decide

/-- No key; the lowest and the highest key index that can be the first one down. -/
theorem witness_WaitingStepScansKeys :
    { State.reset with wait := true }.wait = true ∧ (0x0000#16 = 0) ∧ (0xFFFF#16).getLsbD 0 = true ∧
      ((0x8000#16).getLsbD 15 = true ∧ ∀ j, j < 15 → (0x8000#16).getLsbD j = false) ∧
      ((0x8200#16).getLsbD 9 = true ∧ ∀ j, j < 9 → (0x8200#16).getLsbD j = false) := by decide

theorem witness_FetchReadsTwoBytesOrFaults :
    4096 ≤ { State.reset with pc := 0x1000 }.pc.toNat ∧ { State.reset with pc := 0xFFF }.pc.toNat = 4095 ∧
      { State.reset with pc := 0xFFE }.pc.toNat < 4095 ∧
      ({ State.reset with pc := 0xFFF }.wait = false ∧ { State.reset with pc := 0xFFF }.fetch = .error (.outOfRange 4096)) := by
  decide

/-- A completed step of each of the four kinds the clauses tell apart: `CLS`, `DRW`, UNKNOWN, another instruction. -/
theorem witness_StepOutputs :
    ∃ t1 t2 t3 t4, stepWith { keys := 5, rnd := 0 } (start 0x00E0) = .next t1 ∧
      stepWith { keys := 5, rnd := 0 } (start 0xD010) = .next t2 ∧
      stepWith { keys := 5, rnd := 0 } (start 0xE000) = .next t3 ∧
      stepWith { keys := 5, rnd := 0 } (start 0x6005) = .next t4 ∧ (t1.chg, t2.chg, t3.unknownOut, t4.chg) =
        (true, true, some 0xE000, false) := ⟨_, _, _, _, rfl, rfl, rfl, rfl, by decide⟩

/-- A waiting step; a running step that writes no timer; one that writes each timer. -/
theorem witness_TimersCountRunningStepsOnly :
    (∃ t, stepWith { keys := 0, rnd := 0 } { start 0 with wait := true, dt := 4 } = .next t) ∧
      (∃ t, stepWith { keys := 0, rnd := 0 } (start 0x6005) = .next t) ∧ (start 0x6005).nextInstr = some (.ldImm 0 5) ∧
      (∃ t, stepWith { keys := 0, rnd := 0 } (start 0xF315) = .next t) ∧ (start 0xF315).nextInstr = some (.ldDtReg 3) ∧
      (∃ t, stepWith { keys := 0, rnd := 0 } (start 0xF218) = .next t) ∧ (start 0xF218).nextInstr = some (.ldStReg 2) :=
  ⟨⟨_, rfl⟩, ⟨_, rfl⟩, by decide, ⟨_, rfl⟩, by decide, ⟨_, rfl⟩, by decide⟩

/-- A step that faults in each of the three ways. -/
theorem witness_StepFaultsExactlyAsTheTableSays :
    stepWith { keys := 0, rnd := 0 } { State.reset with pc := 0x1000 } = .fault (.outOfRange 0x1000) ∧
      stepWith { keys := 0, rnd := 0 } { State.reset with pc := 0xFFF } = .fault (.outOfRange 4096) ∧
      stepWith { keys := 0, rnd := 0 } (start 0x00EE) = .fault .stackUnderflow ∧ (start 0x00EE).nextInstr = some .ret ∧
      faultOf .ret (start 0x00EE) = some .stackUnderflow := ⟨rfl, rfl, rfl, by decide, by decide⟩

theorem witness_FaultCodesAndInfo : (Fault.outOfRange 65535).info = 0xFFFF ∧ 65535 < 65536 := by decide

/-- The reset state meets the invariant. -/
theorem reset_inv : State.reset.Inv :=
  ⟨by decide, by decide, fun k h => absurd h (Nat.not_lt_zero k.val), by decide⟩

/-- So does a state with one live slot at each end of its range, and it steps. -/
theorem witness_StepKeepsTheInvariant :
    ∃ s t u, State.Inv s ∧ s.sp = 1 ∧ step s = .next t ∧ stepWith { keys := 1, rnd := 2 } s = .next u :=
  ⟨{ start 0x2300 with idx := 0xFFF, sp := 1, stack := Vector.replicate 16 0x1000 }, _, _,
    ⟨by decide, by decide, by decide, by decide⟩, rfl, rfl, rfl⟩

/-- An instruction of each of the three kinds, completing; both ways of the skip. -/
theorem witness_CursorMovesByTwoFourOrJump :
    (∃ t, exec .cls State.reset = .next t ∧ endsWithJump .cls = false ∧ endsWithSkip .cls = false) ∧
      (∃ t, exec (.seImm 0 0) State.reset = .next t ∧ endsWithSkip (.seImm 0 0) = true ∧ t.pc = 0x204) ∧
      (∃ t, exec (.seImm 0 1) State.reset = .next t ∧ t.pc = 0x202) ∧
      (∃ t, exec (.jp 0xFFF) State.reset = .next t ∧ endsWithJump (.jp 0xFFF) = true) :=
  ⟨⟨_, rfl, by decide⟩, ⟨_, rfl, by decide⟩, ⟨_, rfl, by decide⟩, ⟨_, rfl, by decide⟩⟩

theorem witness_FlagIsZeroOrOneAndWrittenOnlyByFlagInstructions :
    (∃ t, exec (.addReg 15 1) State.reset = .next t ∧ writesFlag (.addReg 15 1) = true) ∧
      (∃ t, exec (.ldImm 1 7) State.reset = .next t ∧ writesFlag (.ldImm 1 7) = false ∧ writesReg (.ldImm 1 7) 15#4 = false) :=
  ⟨⟨_, rfl, by decide⟩, ⟨_, rfl, by decide⟩⟩

/-- A register neither read nor written; one written and not read; an instruction that faults. -/
theorem witness_RegisterAccessMatrix :
    (∃ t, exec (.addReg 1 2) State.reset = .next t ∧ readsReg (.addReg 1 2) 3 = false ∧ writesReg (.addReg 1 2) 3 = false) ∧
      (∃ t, exec (.addReg 1 2) State.reset = .next t ∧ readsReg (.addReg 1 2) 15 = false ∧ writesReg (.addReg 1 2) 15 = true) ∧
      (exec .ret State.reset = .fault .stackUnderflow ∧ readsReg .ret 0 = false) :=
  ⟨⟨_, rfl, by decide⟩, ⟨_, rfl, by decide⟩, rfl, by decide⟩

/-- `SE` is none of the listed writers, and it completes. -/
theorem witness_OnlyTheListedInstructionsWriteEachState :
    ∃ t, exec (.seImm 0 0) State.reset = .next t ∧ (∀ nnn, Instr.seImm 0 0 ≠ .call nnn) ∧ (∀ x, Instr.seImm 0 0 ≠ .ldDtReg x) ∧
      Instr.seImm 0 0 ≠ .cls ∧ (∀ op, Instr.seImm 0 0 ≠ .unknown op) ∧ (∀ x, Instr.seImm 0 0 ≠ .addIndex x) :=
  ⟨_, rfl, (fun _ => by simp), (fun _ => by simp), by decide, (fun _ => by simp), (fun _ => by simp)⟩

/-- A step that completes and one that faults, neither executing `RND`. -/
theorem witness_RandomByteReachesOnlyRnd :
    (∃ t, stepWith { keys := 0, rnd := 1 } (start 0x6005) = .next t) ∧ (start 0x6005).nextInstr = some (.ldImm 0 5) ∧
      stepWith { keys := 0, rnd := 1 } (start 0x00EE) = .fault .stackUnderflow ∧ (start 0x00EE).nextInstr = some .ret :=
  ⟨⟨_, rfl⟩, by decide, rfl, by decide⟩

/-- TM23's shape: `k = 0`; the last pair of a dump up to the end of memory; both pairs of a decimal store. -/
theorem witness_StoredBytesAreFetchedNext :
    (0x202 + 1 < 4096 ∧ 0 + 1 ≤ (1#4).toNat ∧ { State.reset with idx := 0x202 }.pc.toNat + 2 = 0x202 + 0) ∧
      ({ State.reset with idx := 0xFF0, pc := 0xFFC }.idx.toNat + (15#4).toNat < 4096 ∧ 14 + 1 ≤ (15#4).toNat ∧
        { State.reset with idx := 0xFF0, pc := 0xFFC }.pc.toNat + 2 = 0xFF0 + 14) ∧
      (0xFFD + 2 < 4096 ∧ { State.reset with idx := 0xFFD, pc := 0xFFC }.pc.toNat + 2 = 0xFFD + 1) := by decide

theorem witness_CallThenReturnIsANoOp :
    { State.reset with sp := 15, pc := 0xFFD }.sp.val < 16 ∧ { State.reset with sp := 15, pc := 0xFFD }.pc.toNat + 2 < 4096 := by
  decide

theorem witness_DumpThenLoadRestoresRegisters :
    { State.reset with idx := 0xFF1 }.idx.toNat + (14#4).toNat < 4096 ∧ 14#4 ≤ 14#4 ∧ 14#4 < 15#4 := by decide

/-- Drawing at the end of memory; a sprite with a 1 bit under clear pixels; a sprite without one. -/
theorem witness_DrawingTwiceRestoresTheFramebuffer :
    (0#4 ≠ 15#4) ∧ ({ State.reset with idx := 0xFFF }.idx.toNat + (1#4).toNat ≤ 4096) ∧
      (∀ col row, State.reset.pixel col row = false) ∧ (∃ col row, SpriteCovers State.reset 0 1 5 col row) ∧
      (∀ col row, ¬ SpriteCovers State.reset 0 1 0 col row) :=
  ⟨by decide, by decide, fun _ _ => by simp [State.pixel, Frame.pixel, State.reset],
    ⟨0, 0, 0, 0, by decide, by decide, by decide, by decide, by decide⟩,
    fun _ _ ⟨_, _, h, _⟩ => absurd h (Nat.not_lt_zero _)⟩

theorem witness_CallPushesAndJumpsOrOverflows :
    { State.reset with sp := 16 }.sp.val = 16 ∧ { State.reset with sp := 15 }.sp.val = (15 : Fin 16).val ∧
      State.reset.sp.val = (0 : Fin 16).val := by decide

theorem witness_RetPopsAndJumpsOrFaults :
    State.reset.sp.val = 0 ∧ { State.reset with sp := 16 }.sp.val = (15 : Fin 16).val + 1 ∧
      { State.reset with sp := 1 }.sp.val = (0 : Fin 16).val + 1 ∧
      4096 ≤ { State.reset with stack := Vector.replicate 16 0x1000 }.stack[0].toNat ∧
      { State.reset with stack := Vector.replicate 16 0xFFF }.stack[0].toNat < 4096 := by decide

theorem witness_JpV0AddsTheOffsetOrFaults :
    4096 ≤ ((State.reset.setReg 0 1).reg 0#4).toNat + (0xFFF#12).toNat ∧ (State.reset.reg 0#4).toNat + (0xFFF#12).toNat < 4096 := by
  decide

/-- The clauses of the arithmetic statements that exclude `x = 15`. -/
theorem witness_result_register_is_not_the_flag : (14#4 : RegIx) ≠ 15#4 := by decide

theorem witness_RndMasksTheRandomByte : (start 0xC10F).nextInstr = some (.rnd 1 0x0F) := by decide

theorem witness_AddIndexOrFaults :
    4096 ≤ ({ State.reset with idx := 0xF01 }.setReg 1 0xFF).idx.toNat + (({ State.reset with idx := 0xF01 }.setReg 1 0xFF).reg 1).toNat ∧
      ({ State.reset with idx := 0xF01 }.setReg 1 0xFE).idx.toNat + (({ State.reset with idx := 0xF01 }.setReg 1 0xFE).reg 1).toNat < 4096 := by
  decide

theorem witness_StoreDecimalDigitsOrFaults :
    4096 ≤ { State.reset with idx := 0xFFE }.idx.toNat + 2 ∧ { State.reset with idx := 0xFFD }.idx.toNat + 2 < 4096 := by decide

theorem witness_StoreRegistersOrFaults :
    4096 ≤ { State.reset with idx := 0xFF1 }.idx.toNat + (15#4).toNat ∧ { State.reset with idx := 0xFF0 }.idx.toNat + (15#4).toNat < 4096 ∧
      15#4 ≤ 15#4 := by decide

theorem witness_LoadRegistersOrFaults :
    4096 ≤ { State.reset with idx := 0xFFC }.idx.toNat + (4#4).toNat ∧ { State.reset with idx := 0xFFB }.idx.toNat + (4#4).toNat < 4096 ∧
      0#4 ≤ 4#4 := by decide

/-- The last address from which a sprite fits and the first from which it does not; no row at an address past memory; a covered
pixel, set or clear; an uncovered one. -/
theorem witness_DrawSpriteOrFaults :
    (0 < (2#4).toNat ∧ 4096 < { State.reset with idx := 0xFFF }.idx.toNat + (2#4).toNat) ∧
      ({ State.reset with idx := 0xFFF }.idx.toNat + (1#4).toNat ≤ 4096) ∧ (0#4 = 0) ∧
      (SpriteCovers State.reset 0 1 5 0 0 ∧ State.reset.pixel 0 0 = false) ∧
      (SpriteCovers (withPixel State.reset 0 0) 0 1 5 0 0 ∧ (withPixel State.reset 0 0).pixel 0 0 = true) ∧
      ¬ SpriteCovers State.reset 0 1 0 0 0 :=
  ⟨by decide, by decide, rfl, ⟨⟨0, 0, by decide, by decide, by decide, by decide, by decide⟩, by decide⟩,
    ⟨⟨0, 0, by decide, by decide, by decide, by decide, by decide⟩, by decide⟩,
    fun ⟨_, _, h, _⟩ => absurd h (Nat.not_lt_zero _)⟩

theorem witness_FramebufferOutputIsRowMajor :
    (2047 : Fin 2048).val = 64 * (31 : Fin 32).val + (63 : Fin 64).val ∧ (0 : Fin 2048).val = 64 * (0 : Fin 32).val + (0 : Fin 64).val := by
  decide

theorem witness_SkipOnKeyOrFaults :
    15 < ((State.reset.setReg 1 16).reg 1).toNat ∧ ((State.reset.setReg 1 15).reg 1).toNat ≤ 15 ∧ (State.reset.reg 1).toNat ≤ 15 := by
  decide

theorem witness_ReadDelayTimer : (start 0xF407).nextInstr = some (.ldRegDt 4) := by decide

/-- Each timer write, followed by a step that completes and writes no timer (UNKNOWN 0x0000). -/
theorem witness_WriteTimers :
    (start 0xF315).nextInstr = some (.ldDtReg 3) ∧ (start 0xF218).nextInstr = some (.ldStReg 2) ∧
      (∃ t u, stepWith { keys := 0, rnd := 0 } (start 0xF315) = .next t ∧ stepWith { keys := 0, rnd := 0 } t = .next u ∧
        t.nextInstr = some (.unknown 0)) ∧
      (∃ t u, stepWith { keys := 0, rnd := 0 } (start 0xF218) = .next t ∧ stepWith { keys := 0, rnd := 0 } t = .next u ∧
        t.nextInstr = some (.unknown 0)) :=
  ⟨by decide, by decide, ⟨_, _, rfl, rfl, by decide⟩, ⟨_, _, rfl, rfl, by decide⟩⟩

/-- The lowest key down is key 0, and key 15. -/
theorem witness_KeyReadBeginsTheWait :
    (start 0xF30A).nextInstr = some (.ldRegKey 3) ∧ (0xFFFF#16).getLsbD 0 = true ∧
      ((0x8000#16).getLsbD 15 = true ∧ ∀ j, j < 15 → (0x8000#16).getLsbD j = false) := by decide

end Sys2Proof.Tests
end

section
/-! PROOFS of the family 10_state: what a completed instruction has written, what a completed step has done, and from these the
statements about the step's outputs, the timers, the flag and the "written by" column (spec/10_state.md section 1). -/

namespace Sys2Proof.Machine

/-! ### What a completed instruction has written -/

/-- `Effect s i u`: besides moving the cursor, `i` completing in `s` has turned `s` into `u` (10_state.md section 1, column "written
by"). Instructions that write nothing, one register, or a result and its flag are taken together; the others stand one by one.
Which byte, index, memory or picture is written is left open where the frames and the flag do not turn on it. -/
inductive Effect (s : State) : Instr → State → Prop where
  | nothing {i : Instr} (hf : writesFlag i = false) : Effect s i s
  | register {i : Instr} (x : RegIx) (b : Byte) (hf : writesFlag i = false) (hx : writesReg i x = true) : Effect s i (s.setReg x b)
  | resultFlag {i : Instr} (x : RegIx) (b : Byte) (f : Bool) (hx : writesReg i x = true) (hF : writesReg i regF = true) :
      Effect s i (s.setResultFlag x b f)
  | loadRegs (x : RegIx) : Effect s (.loadRegs x) (s.loadBlock (dataAddr s 0) (x.toNat + 1))
  | ldIndex (nnn : Addr) (w : Word) : Effect s (.ldIndex nnn) (s.setIdx w)
  | ldFont (x : RegIx) (w : Word) : Effect s (.ldFont x) (s.setIdx w)
  | addIndex (x : RegIx) (w : Word) (f : Bool) : Effect s (.addIndex x) ((s.setIdx w).setFlag f)
  | ldBcd (x : RegIx) (m : Memory) : Effect s (.ldBcd x) (s.setMem m)
  | storeRegs (x : RegIx) (m : Memory) : Effect s (.storeRegs x) (s.setMem m)
  | call (nnn : Addr) (w : Word) (hsp : s.sp.val < 16) : Effect s (.call nnn) (s.push w hsp)
  | ret : Effect s .ret s.pop
  | ldDtReg (x : RegIx) : Effect s (.ldDtReg x) (s.setDt (s.reg x))
  | ldStReg (x : RegIx) : Effect s (.ldStReg x) (s.setSt (s.reg x))
  | ldRegKey (x : RegIx) : Effect s (.ldRegKey x) (s.beginWait x)
  | cls : Effect s .cls (s.setFb Frame.blank)
  | drw (x y : RegIx) (n : Nibble) (fb : Frame) (hit : Bool) : Effect s (.drw x y n) ((s.setFb fb).setFlag hit)
  | unknown (op : Word) : Effect s (.unknown op) (s.emitUnknown op)

/-- A conditional skip moves the cursor only (R88). -/
theorem State.skipIf_eq (s : State) (c : Bool) : s.skipIf c = { s with pc := (s.skipIf c).pc } := by
  cases c <;> rfl

/-- Everything an instruction that completes can have done: one of the effects, and a move of the cursor (R92). -/
theorem exec_effect {i : Instr} {s t : State} (h : exec i s = .next t) :
    ∃ u pc, Effect s i u ∧ t = { u with pc := pc } := by
  cases i with
  | cls => cases h; exact ⟨_, _, .cls, rfl⟩
  | ret => obtain ⟨_, _, rfl⟩ := execRet_next h; exact ⟨_, _, .ret, rfl⟩
  | jp nnn => obtain rfl := execJp_next h; exact ⟨_, _, .nothing rfl, rfl⟩
  | call nnn => obtain ⟨hsp, rfl⟩ := execCall_next h; exact ⟨_, _, .call nnn _ hsp, rfl⟩
  | jpV0 nnn => obtain ⟨_, rfl⟩ := execJpV0_next h; exact ⟨_, _, .nothing rfl, rfl⟩
  | seImm | sneImm | seReg | sneReg => cases h; exact ⟨_, _, .nothing rfl, State.skipIf_eq ..⟩
  | skp => obtain ⟨_, rfl⟩ := execSkp_next h; exact ⟨_, _, .nothing rfl, State.skipIf_eq ..⟩
  | sknp => obtain ⟨_, rfl⟩ := execSknp_next h; exact ⟨_, _, .nothing rfl, State.skipIf_eq ..⟩
  | ldImm x | addImm x | ldReg x | orReg x | andReg x | xorReg x | rnd x | ldRegDt x =>
    cases h; exact ⟨_, _, .register x _ rfl (by simp [writesReg]), rfl⟩
  | addReg x | subReg x | subnReg x | shr x | shl x =>
    cases h; exact ⟨_, _, .resultFlag x _ _ (by simp [writesReg]) (by simp [writesReg]), rfl⟩
  | loadRegs x => obtain ⟨_, rfl⟩ := execLoadRegs_next h; exact ⟨_, _, .loadRegs x, rfl⟩
  | ldIndex nnn => cases h; exact ⟨_, _, .ldIndex nnn _, rfl⟩
  | ldFont x => cases h; exact ⟨_, _, .ldFont x _, rfl⟩
  | addIndex x => obtain ⟨_, rfl⟩ := execAddIndex_next h; exact ⟨_, _, .addIndex x _ _, rfl⟩
  | ldBcd x => obtain ⟨_, rfl⟩ := execLdBcd_next h; exact ⟨_, _, .ldBcd x _, rfl⟩
  | storeRegs x => obtain ⟨_, rfl⟩ := execStoreRegs_next h; exact ⟨_, _, .storeRegs x _, rfl⟩
  | ldDtReg x => cases h; exact ⟨_, _, .ldDtReg x, rfl⟩
  | ldStReg x => cases h; exact ⟨_, _, .ldStReg x, rfl⟩
  | ldRegKey x => cases h; exact ⟨_, _, .ldRegKey x, rfl⟩
  | drw x y n => obtain ⟨_, rfl⟩ := execDrw_next h; exact ⟨_, _, .drw x y n _ _, rfl⟩
  | unknown op => cases h; exact ⟨_, _, .unknown op, rfl⟩

/-- Settles O21: one look at each effect says which fields it leaves alone. -/
theorem onlyTheListedInstructionsWriteEachState : Obligations.OnlyTheListedInstructionsWriteEachState := by
  intro i s t h
  obtain ⟨u, pc, hu, rfl⟩ := exec_effect h
  cases hu with
  | loadRegs x => rw [State.loadBlock_eq]; simp
  | _ => simp

/-- A flag is the byte 0 or the byte 1 (R11). -/
theorem flagByte_eq_zero_or_one (f : Bool) : flagByte f = 0 ∨ flagByte f = 1 := by
  cases f
  · exact .inl rfl
  · exact .inr rfl

/-- A register the access matrix does not mark W keeps its value (R27). -/
theorem exec_reg_eq {i : Instr} {s t : State} {r : RegIx} (h : exec i s = .next t) (hr : writesReg i r = false) :
    t.reg r = s.reg r := by
  obtain ⟨u, pc, hu, rfl⟩ := exec_effect h
  change u.reg r = s.reg r
  cases hu with
  | register x b _ hx =>
    have hne : r ≠ x := by rintro rfl; simp [hx] at hr
    simp [hne]
  | resultFlag x b f hx hF =>
    have hne : r ≠ x := by rintro rfl; simp [hx] at hr
    have hneF : r ≠ regF := by rintro rfl; simp [hF] at hr
    simp [hne, hneF]
  | loadRegs x =>
    have hlt : x.toNat < r.toNat := by simpa [writesReg, BitVec.lt_def] using hr
    rw [State.reg_loadBlock _ _ _ _ (by omega), if_neg (by omega)]
  | addIndex | drw =>
    have hneF : r ≠ regF := by simpa [writesReg] using hr
    simp [hneF]
  | _ => simp

/-- An instruction that writes `VF` as a flag leaves a flag byte in it, also where `V[15]` is its destination (R11, R120). -/
theorem exec_flag {i : Instr} {s t : State} (h : exec i s = .next t) (hf : writesFlag i = true) :
    ∃ f, t.reg regF = flagByte f := by
  obtain ⟨u, pc, hu, rfl⟩ := exec_effect h
  change ∃ f, u.reg regF = flagByte f
  cases hu with
  | nothing hf' | register x b hf' hx => simp [hf'] at hf
  | resultFlag x b f => exact ⟨f, by simp⟩
  | addIndex x w f => exact ⟨f, by simp⟩
  | drw x y n fb hit => exact ⟨hit, by simp⟩
  | _ => cases hf

/-- Settles O19: a flag writer leaves a flag byte; the rest of it is the access matrix at `V[15]`. -/
theorem flagIsZeroOrOneAndWrittenOnlyByFlagInstructions :
    Obligations.FlagIsZeroOrOneAndWrittenOnlyByFlagInstructions := by
  intro i s t h
  refine ⟨fun hf => ?_, fun _ hr => exec_reg_eq h hr⟩
  obtain ⟨f, hF⟩ := exec_flag h hf
  rw [hF]
  exact flagByte_eq_zero_or_one f

/-! ### What a completed step has done -/

/-- The waiting branch writes the target register and the wait, or nothing (R82). -/
theorem State.waitingBranch_cases (s : State) :
    (lowestKey s.key = none ∧ s.waitingBranch = s) ∨
      ∃ k, lowestKey s.key = some k ∧ s.waitingBranch = (s.setReg s.wreg (BitVec.ofNat 8 k)).endWait := by
  cases hk : lowestKey s.key with
  | none => exact .inl ⟨rfl, by simp only [State.waitingBranch, hk]⟩
  | some k => exact .inr ⟨k, rfl, by simp only [State.waitingBranch, hk]⟩

/-- A completed step was a waiting one, which executes nothing, or executed the next instruction at the entry state with the timers
counted down (R81, R82, R85). -/
theorem stepWith_next {inp : Input} {s t : State} (h : stepWith inp s = .next t) :
    (s.wait = true ∧ s.nextInstr = none ∧ t = (s.enter inp).waitingBranch) ∨
      (s.wait = false ∧ ∃ i, s.nextInstr = some i ∧ exec i (s.enter inp).tickTimers = .next t) := by
  rcases stepWith_cases inp s with ⟨hw, he⟩ | ⟨hw, op, hop, he⟩ | ⟨_, f, _, he⟩
  · rw [he] at h
    cases h
    exact .inl ⟨hw, by simp [State.nextInstr, hw], rfl⟩
  · exact .inr ⟨hw, decode op, by simp [State.nextInstr, hw, hop], he ▸ h⟩
  · rw [he] at h
    cases h

/-- The waiting branch keeps what it does not write, among it the timers and the outputs cleared at entry (R82, R183). -/
theorem State.waitingBranch_frame (s : State) :
    s.waitingBranch.key = s.key ∧ s.waitingBranch.dt = s.dt ∧ s.waitingBranch.st = s.st ∧ s.waitingBranch.fb = s.fb ∧
      s.waitingBranch.chg = s.chg ∧ s.waitingBranch.unknownOut = s.unknownOut := by
  rcases s.waitingBranch_cases with ⟨_, he⟩ | ⟨k, _, he⟩ <;> simp [he]

/-- `CLS` and `DRW`, and no other instruction, set `CHG` in a state where it is clear; where they do not run the framebuffer stays
(R21, R150, R151). -/
theorem exec_chg {i : Instr} {s t : State} (h : exec i s = .next t) (hs : s.chg = false) :
    (t.chg = true ↔ i = .cls ∨ ∃ x y n, i = .drw x y n) ∧ (t.chg = false → t.fb = s.fb) := by
  by_cases hi : i = .cls ∨ ∃ x y n, i = .drw x y n
  · have hchg : t.chg = true := by
      rcases hi with rfl | ⟨x, y, n, rfl⟩
      · cases h; rfl
      · obtain ⟨_, rfl⟩ := execDrw_next h; rfl
    simp [hchg, hi]
  · obtain ⟨-, -, -, -, -, -, -, hfb, -, -⟩ := onlyTheListedInstructionsWriteEachState i s t h
    obtain ⟨hfb, hchg⟩ := hfb (fun hc => hi (.inl hc)) (fun x y n hd => hi (.inr ⟨x, y, n, hd⟩))
    simp [hchg, hs, hfb, hi]

/-- UNKNOWN, and no other instruction, leaves a word in `unknown_out` where there was none, and the word is its own (R90). -/
theorem exec_unknownOut {i : Instr} {s t : State} (h : exec i s = .next t) (hs : s.unknownOut = none) (op : Word) :
    t.unknownOut = some op ↔ i = .unknown op := by
  by_cases hi : ∃ w, i = .unknown w
  · obtain ⟨w, rfl⟩ := hi
    cases h
    simp
  · obtain ⟨-, -, -, -, -, -, -, -, -, hout⟩ := onlyTheListedInstructionsWriteEachState i s t h
    rw [hout fun w hw => hi ⟨w, hw⟩, hs]
    simpa using fun hw => hi ⟨op, hw⟩

/-- Settles O12: the entry clears both outputs; a waiting step leaves them so, and a running one changes them by its instruction. -/
theorem stepOutputs : Obligations.StepOutputs := by
  intro inp s t h
  rcases stepWith_next h with ⟨_, hnone, rfl⟩ | ⟨_, i, hi, he⟩
  · obtain ⟨hkey, -, -, hfb, hchg, hout⟩ := (s.enter inp).waitingBranch_frame
    simp [hkey, hfb, hchg, hout, hnone, State.pixel]
  · obtain ⟨-, -, -, -, -, hkey, -⟩ := onlyTheListedInstructionsWriteEachState _ _ _ he
    obtain ⟨hchg, hfb⟩ := exec_chg he rfl
    refine ⟨hkey, ?_, fun op => ?_, fun hc col row => ?_⟩
    · simpa [hi] using hchg
    · simpa [hi] using exec_unknownOut he rfl op
    · simp [State.pixel, hfb hc]

/-- Settles O13: a waiting step leaves the timers; a running one counts them down at entry, and only a timer write comes after. -/
theorem timersCountRunningStepsOnly : Obligations.TimersCountRunningStepsOnly := by
  intro inp s t h
  rcases stepWith_next h with ⟨hw, _, rfl⟩ | ⟨hw, i, hi, he⟩
  · obtain ⟨-, hdt, hst, -⟩ := (s.enter inp).waitingBranch_frame
    simp [hw, hdt, hst]
  · obtain ⟨-, -, -, hdt, hst, -⟩ := onlyTheListedInstructionsWriteEachState _ _ _ he
    simp only [hw, hi, Option.some.injEq, ne_eq]
    refine ⟨nofun, fun _ => ⟨fun hne => ?_, fun hne => ?_, ?_, ?_⟩⟩
    · simp [hdt hne, countDown_toNat]
    · simp [hst hne, countDown_toNat]
    · rintro x rfl
      cases he
      simp
    · rintro x rfl
      cases he
      simp

/-- Fetch with both bytes in memory is the big-endian word (R43, R84). -/
theorem State.fetch_of_lt {s : State} (hpc : s.pc.toNat + 1 < 4096) :
    s.fetch = .ok (wordOfBytes (s.byteAt s.pc.toNat) (s.byteAt (s.pc.toNat + 1))) := by
  rcases s.fetch_cases with ⟨_, hf⟩ | ⟨hpc', _⟩ | ⟨hpc', _⟩
  · exact hf
  · omega
  · omega

/-- A running step that fetches `op` is its meaning at the entry state with the timers counted down (R83, R85). -/
theorem stepWith_of_fetch {inp : Input} {s : State} {op : Word} (hw : s.wait = false) (hf : s.fetch = .ok op) :
    stepWith inp s = exec (decode op) (s.enter inp).tickTimers := by
  simp [stepWith, State.runningBranch, hw, hf]

/-- Settles O9: the entry state and the word are the model's own, written out; `step` is the same on its own input. -/
theorem runningStepRunsTheDecodedInstruction : Obligations.RunningStepRunsTheDecodedInstruction :=
  ⟨fun _ _ hw hpc => stepWith_of_fetch hw (State.fetch_of_lt hpc),
    fun _ hw hpc => stepWith_of_fetch (s := State.takeInput _) hw (State.fetch_of_lt hpc)⟩

end Sys2Proof.Machine
end

section
/-! PROOFS of the family 20_memory: what memory reads as after initialisation (spec/20_memory.md R53, on R41 and R190). -/

namespace Sys2Proof.Machine

/-- Past the font region an unlisted address reads as zero (R41). -/
theorem Memory.unlisted_of_le {a : Nat} (ha : 80 ≤ a) : Memory.unlisted a = 0 := by
  simp [Memory.unlisted, Nat.not_lt.mpr ha]

/-- A font has no byte past the font region (R41). -/
theorem fontByte_of_le (font : Vector Byte 80) {a : Nat} (ha : 80 ≤ a) (b : Byte) : font.toList.getD a b = b :=
  List.getD_eq_default _ _ (by simpa using ha)

/-- Memory with only a font loaded reads as the font and, past it, zero: nothing of the default font shows through (R41). -/
theorem read_loadFont (font : Vector Byte 80) (a : Nat) :
    (loadBytes State.reset.mem 0 font.toList).read a = font.toList.getD a 0 := by
  have hreset : State.reset.mem.read a = Memory.unlisted a := Memory.read_nil a
  rw [read_loadBytes, hreset]
  by_cases hfont : a < 80
  · have hlen : a < font.toList.length := by simpa using hfont
    have hmem : 0 ≤ a ∧ a < 4096 := by omega
    rw [if_pos hmem, Nat.sub_zero, List.getD_eq_getElem _ _ hlen, List.getD_eq_getElem _ _ hlen]
  · simp only [Nat.not_lt] at hfont
    rw [Memory.unlisted_of_le hfont, Nat.sub_zero, fontByte_of_le font hfont, ite_self]

/-- Initialisation reads as the image from 0x200 as far as memory goes, and as the font under it (R53, R190). -/
theorem State.init_byteAt (font : Vector Byte 80) (image : List Byte) (a : Nat) :
    (State.init font image).byteAt a =
      if 0x200 ≤ a ∧ a < 4096 then image.getD (a - 0x200) (font.toList.getD a 0) else font.toList.getD a 0 := by
  simp only [State.init, State.byteAt, read_loadBytes image, read_loadFont]

/-- Settles O6: the image lies wholly past the font, where the memory under it is zero. -/
theorem initLoadsFontAndImage : Obligations.InitLoadsFontAndImage := by
  intro font image a ha
  rw [State.init_byteAt]
  by_cases hfont : a < 80
  · have himage : ¬ (0x200 ≤ a ∧ a < 4096) := by omega
    rw [if_neg himage, if_pos hfont]
  · rw [if_neg hfont, fontByte_of_le font (Nat.not_lt.mp hfont)]
    by_cases himage : a < 0x200
    · have hout : ¬ (0x200 ≤ a ∧ a < 4096) := by omega
      rw [if_neg hout, if_pos himage]
    · have hin : 0x200 ≤ a ∧ a < 4096 := by omega
      rw [if_pos hin, if_neg himage]

end Sys2Proof.Machine
end

section
/-! PROOFS of the family 40_step_and_cursor: the frame of each operation such a step is made of, and how frames compose; the waiting
step, the move of the cursor, and UNKNOWN (spec/40_step_and_cursor.md R82, R90, R92). -/

namespace Sys2Proof.Machine

/-! ### Frames of the operations -/

/-- One change after another: the parts of both may have changed. -/
theorem OnlyChanges.trans {as bs : List Part} {s t u : State} (hst : OnlyChanges as s t) (htu : OnlyChanges bs t u) :
    OnlyChanges (as ++ bs) s u := by
  intro p hp
  obtain ⟨has, hbs⟩ := not_or.mp (mt List.mem_append.mpr hp)
  have h1 := hst p has
  have h2 := htu p hbs
  cases p <;> exact h2.trans h1

/-- A frame may list more parts than have changed, and in another order. -/
theorem OnlyChanges.mono {as bs : List Part} {s t : State} (h : OnlyChanges as s t) (hsub : as ⊆ bs) : OnlyChanges bs s t :=
  fun p hp => h p (fun hmem => hp (hsub hmem))

theorem onlyChanges_advance (s : State) : OnlyChanges [.cursor] s s.advance := by
  intro p hp
  cases p with
  | cursor => exact absurd (.head _) hp
  | _ => rfl

theorem onlyChanges_emitUnknown (s : State) (op : Word) : OnlyChanges [.unknownOut] s (s.emitUnknown op) := by
  intro p hp
  cases p with
  | unknownOut => exact absurd (.head _) hp
  | _ => rfl

theorem onlyChanges_setReg (s : State) (r : RegIx) (b : Byte) : OnlyChanges [.reg r] s (s.setReg r b) := by
  intro p hp
  cases p with
  | reg q =>
    have hne : q ≠ r := by rintro rfl; exact hp (.head _)
    simp [Part.Same, hne]
  | _ => rfl

theorem onlyChanges_endWait (s : State) : OnlyChanges [.waiting] s s.endWait := by
  intro p hp
  cases p with
  | waiting => exact absurd (.head _) hp
  | _ => rfl

theorem onlyChanges_enter (s : State) (inp : Input) :
    OnlyChanges [.keys, .rndIn, .changed, .unknownOut] s (s.enter inp) := by
  intro p hp
  cases p with
  | keys | rndIn | changed | unknownOut => exact absurd (by simp) hp
  | _ => rfl

/-! ### UNKNOWN -/

/-- Settles O54: the event, then the advance. -/
theorem unknownIsRecordedAndSkipped : Obligations.UnknownIsRecordedAndSkipped := fun op s =>
  ⟨(s.emitUnknown op).advance, rfl, rfl, rfl, (onlyChanges_emitUnknown s op).trans (onlyChanges_advance _)⟩

/-! ### The waiting step -/

/-- With no key down there is no lowest key (R82). -/
theorem lowestKey_zero : lowestKey 0 = none := rfl

/-- A key that is down, with no lower key down, is the lowest key (R82). -/
theorem lowestKey_eq_some {keys : BitVec 16} {k : Nat} (hk : k < 16) (hdown : keys.getLsbD k = true)
    (hlow : ∀ j < k, keys.getLsbD j = false) : lowestKey keys = some k := by
  simp only [lowestKey, List.find?_range_eq_some, List.mem_range]
  exact ⟨hdown, hk, fun j hj => by simp [hlow j hj]⟩

/-- A waiting step without a lowest key ends where it entered (R82). -/
theorem stepWith_of_wait_of_no_key {inp : Input} {s : State} (hw : s.wait = true) (hk : lowestKey inp.keys = none) :
    stepWith inp s = .next (s.enter inp) := by
  simp [stepWith, hw, State.waitingBranch, hk]

/-- A waiting step with a lowest key puts its index into the awaited register and ends the wait (R82). -/
theorem stepWith_of_wait_of_key {inp : Input} {s : State} {k : Nat} (hw : s.wait = true) (hk : lowestKey inp.keys = some k) :
    stepWith inp s = .next ((s.enter inp).setReg s.wreg (BitVec.ofNat 8 k)).endWait := by
  simp [stepWith, hw, State.waitingBranch, hk]

/-- Settles O10: the entry alone, or the entry, the register write and the end of the wait. -/
theorem waitingStepScansKeys : Obligations.WaitingStepScansKeys := by
  intro inp s hw
  refine ⟨fun hnone => ?_, fun k hk hdown hlow => ?_⟩
  · have hstep := stepWith_of_wait_of_no_key hw (hnone ▸ lowestKey_zero)
    exact ⟨_, hstep, rfl, rfl, rfl, onlyChanges_enter s inp⟩
  · have hstep := stepWith_of_wait_of_key hw (lowestKey_eq_some hk hdown hlow)
    have hreg : (((s.enter inp).setReg s.wreg (BitVec.ofNat 8 k)).endWait.reg s.wreg).toNat = k := by
      simp only [State.endWait_reg, State.setReg_reg, if_true, BitVec.toNat_ofNat]
      omega
    have hframe := (onlyChanges_enter s inp).trans
      ((onlyChanges_setReg _ s.wreg (BitVec.ofNat 8 k)).trans (onlyChanges_endWait _))
    exact ⟨_, hstep, hreg, rfl, rfl, rfl, rfl, hframe.mono (by simp)⟩

/-! ### The move of the cursor -/

/-- Loading registers leaves the cursor alone (R145). -/
@[simp] theorem State.loadBlock_pc (s : State) (base count : Nat) : (s.loadBlock base count).pc = s.pc := by
  rw [State.loadBlock_eq]

/-- An address field is an address in memory (R62). -/
theorem addrWord_lt (nnn : Addr) : (addrWord nnn).toNat < 4096 := by
  have hn := nnn.isLt
  simp only [addrWord, BitVec.toNat_setWidth]
  omega

/-- A conditional skip moves the cursor by 2 or by 4 (R88). -/
theorem State.skipIf_pc_cases (s : State) (c : Bool) : (s.skipIf c).pc = s.pc + 2 ∨ (s.skipIf c).pc = s.pc + 4 := by
  cases c
  · exact .inl rfl
  · exact .inr rfl

/-- A jump completed: the cursor is its target, which was in range (R89). -/
theorem State.jump_pc_lt {s t : State} {addr : Nat} (h : s.jump addr = .next t) : t.pc.toNat < 4096 := by
  obtain ⟨hlt, rfl⟩ := State.jump_next h
  simp only [BitVec.toNat_ofNat]
  omega

/-- `CursorMove s i pc`: `pc` is where `i`, completing in `s`, may leave the cursor (R92): after a jump, a conditional skip or an
advance, one of which ends every instruction. -/
inductive CursorMove (s : State) (i : Instr) (pc : Word) : Prop where
  | jump (hi : endsWithJump i = true ∧ endsWithSkip i = false) (hpc : pc.toNat < 4096)
  | skip (hi : endsWithJump i = false ∧ endsWithSkip i = true) (hpc : pc = s.pc + 2 ∨ pc = s.pc + 4)
  | advance (hi : endsWithJump i = false ∧ endsWithSkip i = false) (hpc : pc = s.pc + 2)

/-- Every instruction that completes ends with one of the three moves (R92). -/
theorem exec_cursorMove {i : Instr} {s t : State} (h : exec i s = .next t) : CursorMove s i t.pc := by
  cases i with
  | ret => obtain ⟨_, hlt, rfl⟩ := execRet_next h; exact .jump ⟨rfl, rfl⟩ hlt
  | call nnn => obtain ⟨_, rfl⟩ := execCall_next h; exact .jump ⟨rfl, rfl⟩ (addrWord_lt nnn)
  | jp | jpV0 => exact .jump ⟨rfl, rfl⟩ (State.jump_pc_lt h)
  | seImm | sneImm | seReg | sneReg => cases h; exact .skip ⟨rfl, rfl⟩ (State.skipIf_pc_cases ..)
  | skp => obtain ⟨_, rfl⟩ := execSkp_next h; exact .skip ⟨rfl, rfl⟩ (State.skipIf_pc_cases ..)
  | sknp => obtain ⟨_, rfl⟩ := execSknp_next h; exact .skip ⟨rfl, rfl⟩ (State.skipIf_pc_cases ..)
  | addIndex => obtain ⟨_, rfl⟩ := execAddIndex_next h; exact .advance ⟨rfl, rfl⟩ rfl
  | ldBcd => obtain ⟨_, rfl⟩ := execLdBcd_next h; exact .advance ⟨rfl, rfl⟩ rfl
  | storeRegs => obtain ⟨_, rfl⟩ := execStoreRegs_next h; exact .advance ⟨rfl, rfl⟩ rfl
  | loadRegs => obtain ⟨_, rfl⟩ := execLoadRegs_next h; exact .advance ⟨rfl, rfl⟩ (by simp)
  | drw => obtain ⟨_, rfl⟩ := execDrw_next h; exact .advance ⟨rfl, rfl⟩ rfl
  | _ => cases h; exact .advance ⟨rfl, rfl⟩ rfl

/-- Settles O18: each clause speaks of one of the three moves. -/
theorem cursorMovesByTwoFourOrJump : Obligations.CursorMovesByTwoFourOrJump := by
  intro i s t h
  cases exec_cursorMove h with
  | jump hi hpc => simp [hi, hpc]
  | skip hi hpc => simpa [hi] using hpc
  | advance hi hpc => simp [hi, hpc]

end Sys2Proof.Machine
end

section
/-! PROOFS of the family 41_control_flow: jumps, the call stack and the conditional skips, each as its operation and the frame of it
(spec/41_control_flow.md R100 to R107). -/

namespace Sys2Proof.Machine

/-! ### The cursor: jumps and skips -/

theorem onlyChanges_cursor (s : State) (w : Word) : OnlyChanges [.cursor] s { s with pc := w } := by
  intro p hp
  cases p with
  | cursor => exact absurd (.head _) hp
  | _ => rfl

/-- A jump to an address in memory completes (R89). -/
theorem State.jump_of_lt (s : State) {addr : Nat} (h : addr < 4096) :
    s.jump addr = .next { s with pc := BitVec.ofNat 16 addr } := by
  rcases s.jump_cases addr with ⟨_, he⟩ | ⟨hle, _⟩
  · exact he
  · omega

/-- A jump past memory faults with its target (R89). -/
theorem State.jump_of_le (s : State) {addr : Nat} (h : 4096 ≤ addr) : s.jump addr = .fault (.outOfRange addr) := by
  rcases s.jump_cases addr with ⟨hlt, _⟩ | ⟨_, he⟩
  · omega
  · exact he

/-- An address field widened to a word is the same number (R62). -/
theorem addrWord_toNat (nnn : Addr) : (addrWord nnn).toNat = nnn.toNat :=
  BitVec.toNat_setWidth_of_le (by decide)

theorem onlyChanges_skipIf (s : State) (c : Bool) : OnlyChanges [.cursor] s (s.skipIf c) :=
  State.skipIf_eq s c ▸ onlyChanges_cursor s _

/-! ### The call stack -/

theorem onlyChanges_push (s : State) (w : Word) (h : s.sp.val < 16) :
    OnlyChanges [.slot ⟨s.sp.val, h⟩, .stackPointer] s (s.push w h) := by
  intro p hp
  cases p with
  | stackPointer => exact absurd (by simp) hp
  | slot j =>
    have hne : s.sp.val ≠ j.val := fun he => hp (by simp [he])
    simp [Part.Same, hne]
  | _ => rfl

theorem onlyChanges_pop (s : State) : OnlyChanges [.stackPointer] s s.pop := by
  intro p hp
  cases p with
  | stackPointer => exact absurd (.head _) hp
  | _ => rfl

/-- `CALL` with a full stack overflows (R102, R172). -/
theorem execCall_of_full (nnn : Addr) {s : State} (h : s.sp.val = 16) : execCall nnn s = .fault .stackOverflow := by
  simp [execCall, raise, h]

/-- `RET` with an empty stack underflows, whatever the slots hold (R100, R173). -/
theorem execRet_of_empty {s : State} (h : s.sp.val = 0) : execRet s = .fault .stackUnderflow := by
  have hsp : s.sp = 0 := Fin.ext h
  simp [execRet, raise, hsp]

/-- `RET` with `k + 1` addresses held pops slot `k` and jumps there (R100). -/
theorem execRet_of_held {s : State} {k : Fin 16} (h : s.sp.val = k.val + 1) :
    execRet s = s.pop.jump s.stack[k.val].toNat := by
  have hsp : s.sp ≠ 0 := fun h0 => by simp [h0] at h
  have htop : s.top = s.stack[k.val] := by simp [State.top, h]
  rw [execRet, if_neg hsp, htop]

/-! ### The statements -/

/-- Settles O27: an address field is an address in memory, so the jump completes. -/
theorem jpSetsTheCursor : Obligations.JpSetsTheCursor := fun nnn s =>
  ⟨_, execJp_eq nnn s, addrWord_toNat nnn, onlyChanges_cursor s _⟩

/-- Settles O28: the full stack, or the push and then the cursor. -/
theorem callPushesAndJumpsOrOverflows : Obligations.CallPushesAndJumpsOrOverflows := by
  refine fun nnn s => ⟨execCall_of_full nnn, fun k hk => ?_⟩
  have hsp : s.sp.val < 16 := hk ▸ k.isLt
  obtain rfl : k = ⟨s.sp.val, hsp⟩ := Fin.ext hk.symm
  have hslot : (s.push (s.pc + 2) hsp).stack[s.sp.val] = s.pc + 2 := by simp
  have hframe := (onlyChanges_push s (s.pc + 2) hsp).trans (onlyChanges_cursor _ (addrWord nnn))
  exact ⟨_, execCall_eq nnn s hsp, hslot, rfl, addrWord_toNat nnn, hframe⟩

/-- Settles O29: the empty stack, or the pop and then the jump, which checks the popped address. -/
theorem retPopsAndJumpsOrFaults : Obligations.RetPopsAndJumpsOrFaults := by
  refine fun s => ⟨execRet_of_empty, fun k hk => ⟨fun hout => ?_, fun hin => ?_⟩⟩
  · exact (execRet_of_held hk).trans (s.pop.jump_of_le hout)
  · have hnext := (execRet_of_held hk).trans (s.pop.jump_of_lt hin)
    have hsp : s.pop.sp.val = k.val := by simp [hk]
    have hframe := (onlyChanges_pop s).trans (onlyChanges_cursor _ (BitVec.ofNat 16 s.stack[k.val].toNat))
    exact ⟨_, hnext, by simp, hsp, hframe⟩

/-- Settles O30: the exact sum is what the jump checks; below 4096 the cursor holds it whole. -/
theorem jpV0AddsTheOffsetOrFaults : Obligations.JpV0AddsTheOffsetOrFaults := by
  refine fun nnn s => ⟨s.jump_of_le, fun hin => ⟨_, s.jump_of_lt hin, ?_, onlyChanges_cursor s _⟩⟩
  simp only [offsetTarget, BitVec.toNat_ofNat]
  omega

/-- Settles O31: both are a conditional skip on the comparison. -/
theorem skipOnImmediate : Obligations.SkipOnImmediate := fun x kk s =>
  ⟨⟨s.skipIf (s.reg x == kk), rfl, by simp, onlyChanges_skipIf s _⟩,
    ⟨s.skipIf (s.reg x != kk), rfl, by simp, onlyChanges_skipIf s _⟩⟩

/-- Settles O32: both are a conditional skip on the comparison, and the ignored nibble reaches neither. -/
theorem skipOnRegister : Obligations.SkipOnRegister := fun x y _ s =>
  ⟨⟨s.skipIf (s.reg x == s.reg y), rfl, by simp, onlyChanges_skipIf s _⟩,
    ⟨s.skipIf (s.reg x != s.reg y), rfl, by simp, onlyChanges_skipIf s _⟩⟩

end Sys2Proof.Machine
end

section
/-! PROOFS of the family 42_alu: the instructions that write one register, and those that write a result and its flag, each as the
write, the advance and the frame of both; then what the flags and the results are as numbers (spec/42_alu.md R120 to R132). -/

namespace Sys2Proof.Machine

/-! ### The two shapes: one register, or a result and its flag -/

theorem State.setReg_advance_reg (s : State) (x : RegIx) (b : Byte) : (s.setReg x b).advance.reg x = b := by
  simp

theorem onlyChanges_setReg_advance (s : State) (x : RegIx) (b : Byte) :
    OnlyChanges [.reg x, .cursor] s (s.setReg x b).advance :=
  (onlyChanges_setReg s x b).trans (onlyChanges_advance _)

/-- The flag is written last, so it is in `VF` for every destination (R120). -/
theorem State.setResultFlag_advance_regF (s : State) (x : RegIx) (b : Byte) (f : Bool) :
    (s.setResultFlag x b f).advance.reg 15#4 = flagByte f := by
  simp

/-- The result is in its destination, unless the flag has replaced it there (R120). -/
theorem State.setResultFlag_advance_reg (s : State) {x : RegIx} (b : Byte) (f : Bool) (hx : x ≠ 15#4) :
    (s.setResultFlag x b f).advance.reg x = b := by
  simp [hx]

theorem onlyChanges_setResultFlag_advance (s : State) (x : RegIx) (b : Byte) (f : Bool) :
    OnlyChanges [.reg x, .reg 15#4, .cursor] s (s.setResultFlag x b f).advance :=
  (onlyChanges_setReg s x b).trans ((onlyChanges_setReg _ regF (flagByte f)).trans (onlyChanges_advance _))

/-! ### Flags and results as numbers -/

theorem flagByte_carryOut (a b : Byte) : flagByte (carryOut a b) = if a.toNat + b.toNat > 255 then 1 else 0 := by
  simp [flagByte, carryOut]

theorem flagByte_noBorrow (a b : Byte) : flagByte (noBorrow a b) = if a.toNat ≥ b.toNat then 1 else 0 := by
  simp [flagByte, noBorrow]

/-- The difference modulo 256, as the spec writes it (R128, R130). -/
theorem byte_sub_toNat (a b : Byte) : (a - b).toNat = (a.toNat + 256 - b.toNat) % 256 := by
  have hb := b.isLt
  rw [BitVec.toNat_sub]
  omega

/-- The bit a right shift by one shifts out is the remainder of halving (R129). -/
theorem flagByte_shiftedOutRight_toNat (a : Byte) : (flagByte (shiftedOutRight a)).toNat = a.toNat % 2 := by
  have hbit : shiftedOutRight a = decide (a.toNat % 2 = 1) := by simp [shiftedOutRight, BitVec.getLsbD, Nat.testBit_zero]
  rcases Nat.mod_two_eq_zero_or_one a.toNat with h | h <;> simp [hbit, h, flagByte]

/-- The bit a left shift by one shifts out is the carry of doubling (R131). -/
theorem flagByte_shiftedOutLeft_toNat (a : Byte) : (flagByte (shiftedOutLeft a)).toNat = a.toNat / 128 := by
  have ha := a.isLt
  have hbit : shiftedOutLeft a = decide (a.toNat / 128 % 2 = 1) := Nat.testBit_eq_decide_div_mod_eq
  have hhalf : a.toNat / 128 = 0 ∨ a.toNat / 128 = 1 := by omega
  rcases hhalf with h | h <;> simp [hbit, h, flagByte]

theorem byte_shiftRight_one_toNat (a : Byte) : (a >>> 1).toNat = a.toNat / 2 := by
  rw [BitVec.toNat_ushiftRight, Nat.shiftRight_eq_div_pow, pow_one]

theorem byte_shiftLeft_one_toNat (a : Byte) : (a <<< 1).toNat = 2 * a.toNat % 256 := by
  rw [BitVec.toNat_shiftLeft, Nat.shiftLeft_eq, pow_one, Nat.mul_comm]

/-- A masked byte has no bit outside its mask (R132). -/
theorem and_mask_and_not_mask (a kk : Byte) : (a &&& kk) &&& ~~~kk = 0 := by
  rw [BitVec.and_assoc, BitVec.and_not_self]
  exact BitVec.and_zero

/-! ### The step that executes an instruction -/

/-- A step with a next instruction is that instruction at the entry state with the timers counted down (R83, R85). -/
theorem stepWith_of_nextInstr {s : State} {i : Instr} (inp : Input) (h : s.nextInstr = some i) :
    stepWith inp s = exec i (s.enter inp).tickTimers := by
  rcases stepWith_cases inp s with ⟨hw, _⟩ | ⟨hw, op, hop, he⟩ | ⟨hw, f, hf, _⟩
  · simp [State.nextInstr, hw] at h
  · obtain rfl : decode op = i := by simpa [State.nextInstr, hw, hop] using h
    exact he
  · simp [State.nextInstr, hw, hf] at h

/-! ### The statements -/

/-- Settles O33: the write, then the advance. -/
theorem loadImmediate : Obligations.LoadImmediate := fun x kk s =>
  ⟨_, rfl, s.setReg_advance_reg x kk, rfl, onlyChanges_setReg_advance s x kk⟩

/-- Settles O34: addition of bytes is modulo 256. -/
theorem addImmediateWrapsWithoutFlag : Obligations.AddImmediateWrapsWithoutFlag := by
  intro x kk s
  refine ⟨_, rfl, ?_, rfl, onlyChanges_setReg_advance s x (s.reg x + kk)⟩
  rw [State.setReg_advance_reg, BitVec.toNat_add]

/-- Settles O35: the write, then the advance. -/
theorem copyRegister : Obligations.CopyRegister := fun x y s =>
  ⟨_, rfl, s.setReg_advance_reg x (s.reg y), rfl, onlyChanges_setReg_advance s x (s.reg y)⟩

/-- Settles O36: each operation on bytes is the Boolean one at every bit. -/
theorem bitwiseOperations : Obligations.BitwiseOperations := by
  intro x y s
  refine ⟨⟨_, rfl, fun k _ => ?_, rfl, onlyChanges_setReg_advance s x (s.reg x ||| s.reg y)⟩,
    ⟨_, rfl, fun k _ => ?_, rfl, onlyChanges_setReg_advance s x (s.reg x &&& s.reg y)⟩,
    ⟨_, rfl, fun k _ => ?_, rfl, onlyChanges_setReg_advance s x (s.reg x ^^^ s.reg y)⟩⟩
  · rw [State.setReg_advance_reg, BitVec.getLsbD_or]
  · rw [State.setReg_advance_reg, BitVec.getLsbD_and]
  · rw [State.setReg_advance_reg, BitVec.getLsbD_xor]

/-- Settles O37: the carry is written last; the sum of bytes is modulo 256. -/
theorem addRegistersWithCarryOut : Obligations.AddRegistersWithCarryOut := by
  intro x y s
  refine ⟨_, rfl, ?_, fun hx => ?_, rfl, onlyChanges_setResultFlag_advance s x _ _⟩
  · rw [State.setResultFlag_advance_regF, flagByte_carryOut]
  · rw [State.setResultFlag_advance_reg _ _ _ hx, BitVec.toNat_add]

/-- A difference and its flag, whichever register holds the minuend (R120, R128, R130). -/
theorem difference_and_noBorrow_written (s : State) (x : RegIx) (a b : Byte) :
    let t := (s.setResultFlag x (a - b) (noBorrow a b)).advance
    t.reg 15#4 = (if a.toNat ≥ b.toNat then 1 else 0) ∧
      (x ≠ 15#4 → (t.reg x).toNat = (a.toNat + 256 - b.toNat) % 256) ∧
      t.pc = s.pc + 2 ∧ OnlyChanges [.reg x, .reg 15#4, .cursor] s t := by
  refine ⟨?_, fun hx => ?_, rfl, onlyChanges_setResultFlag_advance s x _ _⟩
  · rw [State.setResultFlag_advance_regF, flagByte_noBorrow]
  · rw [State.setResultFlag_advance_reg _ _ _ hx, byte_sub_toNat]

/-- Settles O38: both are a difference and its flag, with minuend and subtrahend exchanged. -/
theorem subtractWithNoBorrowFlag : Obligations.SubtractWithNoBorrowFlag := fun x y s =>
  ⟨⟨_, rfl, difference_and_noBorrow_written s x (s.reg x) (s.reg y)⟩,
    ⟨_, rfl, difference_and_noBorrow_written s x (s.reg y) (s.reg x)⟩⟩

/-- Settles O39: the shifts halve and double, and the ignored nibble reaches neither. -/
theorem shiftsByOneWithBitOut : Obligations.ShiftsByOneWithBitOut := by
  intro x _ s
  refine ⟨⟨_, rfl, ?_, fun hx => ?_, rfl, onlyChanges_setResultFlag_advance s x _ _⟩,
    ⟨_, rfl, ?_, fun hx => ?_, rfl, onlyChanges_setResultFlag_advance s x _ _⟩⟩
  · rw [State.setResultFlag_advance_regF, flagByte_shiftedOutRight_toNat]
  · rw [State.setResultFlag_advance_reg _ _ _ hx, byte_shiftRight_one_toNat]
  · rw [State.setResultFlag_advance_regF, flagByte_shiftedOutLeft_toNat]
  · rw [State.setResultFlag_advance_reg _ _ _ hx, byte_shiftLeft_one_toNat]

/-- Settles O40: the entry of the step has sampled the byte that the instruction masks. -/
theorem rndMasksTheRandomByte : Obligations.RndMasksTheRandomByte := by
  refine ⟨fun x kk s => ?_, fun x kk inp s h => ?_⟩
  · have hreg := s.setReg_advance_reg x (s.rndIn &&& kk)
    refine ⟨_, rfl, hreg, ?_, rfl, onlyChanges_setReg_advance s x (s.rndIn &&& kk)⟩
    rw [hreg, and_mask_and_not_mask]
  · exact ⟨_, stepWith_of_nextInstr inp h, State.setReg_advance_reg _ x (inp.rnd &&& kk)⟩

end Sys2Proof.Machine
end

section
/-! PROOFS of the family 43_index_and_memory: the range check from either side, the frames of an index write, a memory write and a
block, and the operands as numbers; then each instruction from these (spec/43_index_and_memory.md R140 to R145). -/

namespace Sys2Proof.Machine

/-! ### The range checks -/

/-- Bytes that end inside memory pass the range check (R46). -/
theorem inRange_of_le {base count : Nat} (k : Result) (h : base + count ≤ 4096) : inRange base count k = k := by
  rcases inRange_cases base count k with ⟨_, he⟩ | ⟨hlt, _⟩
  · exact he
  · omega

/-- Bytes that end past memory fail the range check, whatever was to follow it (R46). -/
theorem inRange_of_lt {base count : Nat} (k : Result) (h : 4096 < base + count) :
    inRange base count k = .fault (.outOfRange 4096) := by
  rcases inRange_cases base count k with ⟨hle, _⟩ | ⟨_, he⟩
  · omega
  · exact he

/-- The first data byte is at `I` (R134). -/
theorem dataAddr_zero (s : State) : dataAddr s 0 = s.idx.toNat := rfl

/-- `ADD I, Vx` with the exact sum past memory faults with it (R141). -/
theorem execAddIndex_of_le {x : RegIx} {s : State} (h : 4096 ≤ indexSum s x) :
    execAddIndex x s = .fault (.outOfRange (indexSum s x)) := if_pos h

/-- `ADD I, Vx` with the exact sum in memory writes the sum, then the flag (R141). -/
theorem execAddIndex_of_lt {x : RegIx} {s : State} (h : indexSum s x < 4096) :
    execAddIndex x s = .next ((s.setIdx (BitVec.ofNat 16 (indexSum s x))).setFlag (indexFlag s.idx)).advance :=
  if_neg (Nat.not_le.mpr h)

/-! ### Frames of the writes -/

theorem onlyChanges_setIdx (s : State) (w : Word) : OnlyChanges [.index] s (s.setIdx w) := by
  intro p hp
  cases p with
  | index => exact absurd (.head _) hp
  | _ => rfl

theorem onlyChanges_setIdx_advance (s : State) (w : Word) : OnlyChanges [.index, .cursor] s (s.setIdx w).advance :=
  (onlyChanges_setIdx s w).trans (onlyChanges_advance _)

theorem onlyChanges_write (s : State) (a : Nat) (b : Byte) : OnlyChanges [.byte a] s (s.setMem (s.mem.write a b)) := by
  intro p hp
  cases p with
  | byte q =>
    have hne : q ≠ a := by rintro rfl; exact hp (.head _)
    simp [Part.Same, State.byteAt, hne]
  | _ => rfl

/-- A stored block is one byte write after another (R144). -/
theorem onlyChanges_storeBlock (s : State) (base count : Nat) :
    OnlyChanges (byteParts base count) s (s.setMem (s.storeBlock base count)) := by
  induction count with
  | zero => exact fun p _ => by cases p <;> rfl
  | succ k ih =>
    have hparts : byteParts base (k + 1) = byteParts base k ++ [.byte (base + k)] := by simp [byteParts, List.range_succ]
    rw [hparts]
    exact ih.trans (onlyChanges_write _ (base + k) (s.reg (BitVec.ofNat 4 k)))

/-- A loaded block is one register write after another (R145). -/
theorem onlyChanges_loadBlock (s : State) (base count : Nat) :
    OnlyChanges ((List.range count).map fun k => .reg (BitVec.ofNat 4 k)) s (s.loadBlock base count) := by
  induction count with
  | zero => exact fun p _ => by cases p <;> rfl
  | succ k ih =>
    rw [List.range_succ, List.map_append]
    exact ih.trans (onlyChanges_setReg _ (BitVec.ofNat 4 k) (s.byteAt (base + k)))

/-- After a change and the advance, the cursor may head the list of what has changed. -/
theorem OnlyChanges.advance {as : List Part} {s t : State} (h : OnlyChanges as s t) :
    OnlyChanges (.cursor :: as) s t.advance :=
  (h.trans (onlyChanges_advance t)).mono (List.perm_append_singleton _ _).subset

/-! ### Operands and contents -/

theorem glyphAddr_toNat (b : Byte) : (glyphAddr b).toNat = 5 * b.toNat := by
  have hb := b.isLt
  have hfive : (5 : Word).toNat = 5 := rfl
  rw [glyphAddr, BitVec.toNat_mul, BitVec.toNat_setWidth, hfive]
  omega

theorem flagByte_indexFlag (w : Word) : flagByte (indexFlag w) = if w.toNat > 0x0F00 then 1 else 0 := by
  simp [flagByte, indexFlag]

/-- The digits of a byte are bytes (R143). -/
theorem bcd_toNat (b : Byte) :
    (bcdHundreds b).toNat = b.toNat / 100 ∧ (bcdTens b).toNat = b.toNat / 10 % 10 ∧ (bcdUnits b).toNat = b.toNat % 10 := by
  have hb := b.isLt
  simp only [bcdHundreds, bcdTens, bcdUnits, BitVec.toNat_ofNat]
  omega

/-- Three writes at consecutive addresses do not cover one another. -/
theorem Memory.read_write_three (m : Memory) (a : Nat) (b c d : Byte) :
    let n := ((m.write a b).write (a + 1) c).write (a + 2) d
    n.read a = b ∧ n.read (a + 1) = c ∧ n.read (a + 2) = d := by
  simp

/-- A stored block holds register `r` at its own place (R144). -/
theorem State.read_storeBlock_reg (s : State) (base : Nat) {count : Nat} {r : RegIx} (hr : r.toNat < count) :
    (s.storeBlock base count).read (base + r.toNat) = s.reg r := by
  have hin : base ≤ base + r.toNat ∧ base + r.toNat < base + count := by omega
  rw [State.read_storeBlock, if_pos hin, Nat.add_sub_cancel_left, BitVec.ofNat_toNat, BitVec.setWidth_eq]

/-! ### The statements -/

/-- Settles O42: the exact sum is what is checked; below 4096 the index register holds it whole, and the flag saw the old one. -/
theorem addIndexOrFaults : Obligations.AddIndexOrFaults := by
  refine fun x s => ⟨execAddIndex_of_le, fun hin => ⟨_, execAddIndex_of_lt hin, ?_, ?_, rfl, ?_⟩⟩
  · simp only [State.advance_idx, State.setFlag_idx, State.setIdx_idx, indexSum, BitVec.toNat_ofNat]
    omega
  · simp only [State.advance_reg, State.setFlag_reg, if_true, flagByte_indexFlag]
  · exact (onlyChanges_setIdx s _).trans ((onlyChanges_setReg _ regF _).trans (onlyChanges_advance _))

/-- Settles O44: three bytes in range, or none written. -/
theorem storeDecimalDigitsOrFaults : Obligations.StoreDecimalDigitsOrFaults := by
  refine fun x s => ⟨fun hout => inRange_of_lt _ (by rw [dataAddr_zero]; omega), fun hin => ?_⟩
  obtain ⟨hhundreds, htens, hunits⟩ := bcd_toNat (s.reg x)
  obtain ⟨h0, h1, h2⟩ := s.mem.read_write_three (dataAddr s 0) (bcdHundreds (s.reg x)) (bcdTens (s.reg x)) (bcdUnits (s.reg x))
  have hframe := (onlyChanges_write s (dataAddr s 0) (bcdHundreds (s.reg x))).trans
    ((onlyChanges_write _ (dataAddr s 1) (bcdTens (s.reg x))).trans
      ((onlyChanges_write _ (dataAddr s 2) (bcdUnits (s.reg x))).trans (onlyChanges_advance _)))
  exact ⟨_, inRange_of_le _ (by rw [dataAddr_zero]; omega), (congrArg _ h0).trans hhundreds, (congrArg _ h1).trans htens,
    (congrArg _ h2).trans hunits, rfl, hframe⟩

/-- Settles O45: the whole block in range, or nothing written. -/
theorem storeRegistersOrFaults : Obligations.StoreRegistersOrFaults := by
  refine fun x s => ⟨fun hout => inRange_of_lt _ (by rw [dataAddr_zero]; omega), fun hin => ?_⟩
  exact ⟨_, inRange_of_le _ (by rw [dataAddr_zero]; omega),
    fun r hr => s.read_storeBlock_reg (dataAddr s 0) (Nat.lt_succ_of_le hr), rfl, (onlyChanges_storeBlock s _ _).advance⟩

/-- Settles O46: the whole block in range, or nothing loaded. -/
theorem loadRegistersOrFaults : Obligations.LoadRegistersOrFaults := by
  refine fun x s => ⟨fun hout => inRange_of_lt _ (by rw [dataAddr_zero]; omega), fun hin => ?_⟩
  have hreg (r : RegIx) (hr : r ≤ x) : (s.loadBlock (dataAddr s 0) (x.toNat + 1)).reg r = s.byteAt (s.idx.toNat + r.toNat) := by
    rw [State.reg_loadBlock _ _ _ _ x.isLt, if_pos (Nat.lt_succ_of_le hr), dataAddr_zero]
  exact ⟨_, inRange_of_le _ (by rw [dataAddr_zero]; omega), hreg, by simp, (onlyChanges_loadBlock s _ _).advance⟩

/-- Settles O41: the write, then the advance. -/
theorem loadIndex : Obligations.LoadIndex := fun nnn s =>
  ⟨_, rfl, addrWord_toNat nnn, rfl, onlyChanges_setIdx_advance s _⟩

/-- Settles O43: five times a byte is a word. -/
theorem loadGlyphAddress : Obligations.LoadGlyphAddress := fun x s =>
  ⟨_, rfl, glyphAddr_toNat (s.reg x), rfl, onlyChanges_setIdx_advance s _⟩

end Sys2Proof.Machine
end

section
/-! PROOFS of the family 44_display: the frame of an operation that draws, the pixels and the collision of `DRW` as the statements
write them, and its two outcomes; then each instruction from these (spec/44_display.md R150, R151). -/

namespace Sys2Proof.Machine

/-! ### Frames of the operations that draw -/

/-- A frame that keeps the pixels too. -/
theorem OnlyChanges.besidePixels {as : List Part} {s t : State} (h : OnlyChanges as s t) : OnlyChangesBesidePixels as s t :=
  fun p hp _ => h p hp

/-- One change after another: the parts of both may have changed, and any pixel. -/
theorem OnlyChangesBesidePixels.trans {as bs : List Part} {s t u : State} (hst : OnlyChangesBesidePixels as s t)
    (htu : OnlyChangesBesidePixels bs t u) : OnlyChangesBesidePixels (as ++ bs) s u := by
  intro p hp hpix
  obtain ⟨has, hbs⟩ := not_or.mp (mt List.mem_append.mpr hp)
  have h1 := hst p has hpix
  have h2 := htu p hbs hpix
  cases p <;> exact h2.trans h1

/-- Such a frame may list more parts than have changed, and in another order. -/
theorem OnlyChangesBesidePixels.mono {as bs : List Part} {s t : State} (h : OnlyChangesBesidePixels as s t) (hsub : as ⊆ bs) :
    OnlyChangesBesidePixels bs s t :=
  fun p hp => h p (fun hmem => hp (hsub hmem))

theorem onlyChangesBesidePixels_setFb (s : State) (f : Frame) : OnlyChangesBesidePixels [.changed] s (s.setFb f) := by
  intro p hp hpix
  cases p with
  | changed => exact absurd (.head _) hp
  | pixel col row => exact absurd rfl (hpix col row)
  | _ => rfl

/-! ### What `DRW` draws -/

/-- The canvas `DRW Vx, Vy, n` leaves (R151). -/
def State.drawn (s : State) (x y : RegIx) (n : Nibble) : Canvas :=
  drawSprite s (s.reg x) (s.reg y) (dataAddr s 0) n.toNat

/-- The pixels drawn are those the sprite covers (R151). -/
theorem mem_spritePixels_iff_spriteCovers (s : State) (x y : RegIx) (n : Nibble) (col : Fin 64) (row : Fin 32) :
    (col, row) ∈ spritePixels s (s.reg x) (s.reg y) (dataAddr s 0) n.toNat ↔ SpriteCovers s x y n col row :=
  mem_spritePixels ..

/-- A covered pixel is inverted (R151). -/
theorem State.drawn_pixel_of_covers {s : State} {x y : RegIx} {n : Nibble} {col : Fin 64} {row : Fin 32}
    (h : SpriteCovers s x y n col row) : (s.drawn x y n).fb.pixel col row = !s.pixel col row := by
  have hmem := (mem_spritePixels_iff_spriteCovers ..).mpr h
  rw [State.drawn, (drawSprite_spec s _ _ _ _ n.isLt.le).1, decide_eq_true hmem, Bool.xor_true]

/-- A pixel that is not covered stays as it was (R151). -/
theorem State.drawn_pixel_of_not_covers {s : State} {x y : RegIx} {n : Nibble} {col : Fin 64} {row : Fin 32}
    (h : ¬ SpriteCovers s x y n col row) : (s.drawn x y n).fb.pixel col row = s.pixel col row := by
  have hmem := mt (mem_spritePixels_iff_spriteCovers ..).mp h
  rw [State.drawn, (drawSprite_spec s _ _ _ _ n.isLt.le).1, decide_eq_false hmem, Bool.xor_false]

/-- The collision is a covered pixel that was set (R151). -/
theorem State.drawn_hit_iff (s : State) (x y : RegIx) (n : Nibble) :
    (s.drawn x y n).hit = true ↔ ∃ col row, SpriteCovers s x y n col row ∧ s.pixel col row = true := by
  simp only [State.drawn, (drawSprite_spec s _ _ _ _ n.isLt.le).2, Prod.exists, mem_spritePixels_iff_spriteCovers]

/-! ### The two outcomes of `DRW` -/

/-- `DRW` with rows that end past memory faults (R151). -/
theorem execDrw_of_lt {x y : RegIx} {n : Nibble} {s : State} (hn : 0 < n.toNat) (h : 4096 < s.idx.toNat + n.toNat) :
    execDrw x y n s = .fault (.outOfRange 4096) := by
  have hne : n ≠ 0 := by rintro rfl; exact absurd hn (by decide)
  exact (if_neg hne).trans (inRange_of_lt _ h)

/-- `DRW` without rows, or with rows that end inside memory, writes the framebuffer, then the flag (R151). -/
theorem execDrw_of_le {x y : RegIx} {n : Nibble} {s : State} (h : n = 0 ∨ s.idx.toNat + n.toNat ≤ 4096) :
    execDrw x y n s = .next ((s.setFb (s.drawn x y n).fb).setFlag (s.drawn x y n).hit).advance := by
  by_cases hn : n = 0
  · exact if_pos hn
  · exact (if_neg hn).trans (inRange_of_le _ (h.resolve_left hn))

/-! ### The statements -/

/-- Settles O48: past memory or not; the flag is the collision, which no covered pixel makes when all were clear. -/
theorem drawSpriteOrFaults : Obligations.DrawSpriteOrFaults := by
  refine fun x y n s => ⟨execDrw_of_lt, fun hin => ⟨_, execDrw_of_le hin, fun _ _ => State.drawn_pixel_of_covers,
    fun _ _ => State.drawn_pixel_of_not_covers, fun hset => ?_, fun hclear => ?_, rfl, rfl, ?_⟩⟩
  · have hhit := (s.drawn_hit_iff x y n).mpr hset
    simp [hhit, flagByte]
  · have hhit : (s.drawn x y n).hit = false := by
      rw [← Bool.not_eq_true, State.drawn_hit_iff]
      rintro ⟨col, row, hcov, hset⟩
      simp [hclear col row hcov] at hset
    simp [hhit, flagByte]
  · have hframe := (onlyChangesBesidePixels_setFb s (s.drawn x y n).fb).trans
      ((onlyChanges_setReg _ regF (flagByte (s.drawn x y n).hit)).trans (onlyChanges_advance _)).besidePixels
    exact hframe.mono (List.Perm.swap ..).subset

/-- Settles O47: the blank framebuffer, then the advance. -/
theorem clearScreen : Obligations.ClearScreen := fun s =>
  ⟨_, rfl, Frame.pixel_blank, rfl, rfl,
    (onlyChangesBesidePixels_setFb s Frame.blank).trans (onlyChanges_advance _).besidePixels⟩

end Sys2Proof.Machine
end

section
/-! PROOFS of the family 45_timers_and_keypad: the frames of the writes to the timers and to the wait, the two outcomes of a
key-conditional skip, and that only a running step executes an instruction; then each instruction from these
(spec/45_timers_and_keypad.md R160 to R165). -/

namespace Sys2Proof.Machine

/-! ### Frames of the operations -/

theorem onlyChanges_setDt (s : State) (b : Byte) : OnlyChanges [.delay] s (s.setDt b) := by
  intro p hp
  cases p with
  | delay => exact absurd (.head _) hp
  | _ => rfl

theorem onlyChanges_setSt (s : State) (b : Byte) : OnlyChanges [.sound] s (s.setSt b) := by
  intro p hp
  cases p with
  | sound => exact absurd (.head _) hp
  | _ => rfl

theorem onlyChanges_beginWait (s : State) (r : RegIx) : OnlyChanges [.waiting, .waitTarget] s (s.beginWait r) := by
  intro p hp
  cases p with
  | waiting | waitTarget => exact absurd (by simp) hp
  | _ => rfl

/-! ### The key-conditional skips -/

/-- Both skips fault on an index that no key has (R160, R161, R175). -/
theorem execSkp_execSknp_of_lt {x : RegIx} {s : State} (h : 15 < (s.reg x).toNat) :
    execSkp x s = .fault (.keyIndexOutOfRange (s.reg x)) ∧ execSknp x s = .fault (.keyIndexOutOfRange (s.reg x)) :=
  ⟨if_pos h, if_pos h⟩

/-- `SKP` on the index of a key is a conditional skip on the key (R160). -/
theorem execSkp_of_le {x : RegIx} {s : State} (h : (s.reg x).toNat ≤ 15) :
    execSkp x s = .next (s.skipIf (s.keyDown (s.reg x).toNat)) :=
  if_neg h.not_gt

/-- `SKNP` on the index of a key is a conditional skip on the key being up (R161). -/
theorem execSknp_of_le {x : RegIx} {s : State} (h : (s.reg x).toNat ≤ 15) :
    execSknp x s = .next (s.skipIf (!s.keyDown (s.reg x).toNat)) :=
  if_neg h.not_gt

/-- A skip on a negated condition is the same move with its two distances exchanged (R88, R161). -/
theorem State.skipIf_not_pc (s : State) (c : Bool) : (s.skipIf (!c)).pc = if c = true then s.pc + 2 else s.pc + 4 := by
  cases c <;> rfl

/-! ### The running step -/

/-- A step that executes an instruction is a running one (R81). -/
theorem State.wait_of_nextInstr {s : State} {i : Instr} (h : s.nextInstr = some i) : s.wait = false := by
  rw [← Bool.not_eq_true]
  intro hw
  simp [State.nextInstr, hw] at h

/-! ### The statements -/

/-- Settles O50: no key has the index, or the skip is on the key's bit of the snapshot. -/
theorem skipOnKeyOrFaults : Obligations.SkipOnKeyOrFaults := by
  refine fun x s => ⟨execSkp_execSknp_of_lt, fun hkey => ⟨?_, ?_⟩⟩
  · exact ⟨_, execSkp_of_le hkey, s.skipIf_pc _, onlyChanges_skipIf s _⟩
  · exact ⟨_, execSknp_of_le hkey, s.skipIf_not_pc _, onlyChanges_skipIf s _⟩

/-- Settles O51: the entry of the step has counted down the timer that the instruction reads. -/
theorem readDelayTimer : Obligations.ReadDelayTimer := by
  refine ⟨fun x s => ?_, fun x inp s h => ?_⟩
  · exact ⟨_, rfl, s.setReg_advance_reg x s.dt, rfl, onlyChanges_setReg_advance s x s.dt⟩
  · have hread := State.setReg_advance_reg (s.enter inp).tickTimers x (countDown s.dt)
    exact ⟨_, stepWith_of_nextInstr inp h, (congrArg _ hread).trans (countDown_toNat s.dt), countDown_toNat s.dt⟩

/-- Settles O52: the write comes after the countdown of its own step, and the next step is again a running one, which counts down
what was written. -/
theorem writeTimers : Obligations.WriteTimers := by
  refine ⟨fun x s => ⟨?_, ?_⟩, fun x inp next s => ⟨fun h => ?_, fun h => ?_⟩⟩
  · exact ⟨_, rfl, rfl, rfl, (onlyChanges_setDt s _).trans (onlyChanges_advance _)⟩
  · exact ⟨_, rfl, rfl, rfl, (onlyChanges_setSt s _).trans (onlyChanges_advance _)⟩
  · have hw := State.wait_of_nextInstr h
    refine ⟨_, stepWith_of_nextInstr inp h, rfl, fun u hu hother => ?_⟩
    obtain ⟨-, hrun⟩ := timersCountRunningStepsOnly next _ u hu
    obtain ⟨hdt, -⟩ := hrun hw
    exact hdt hother
  · have hw := State.wait_of_nextInstr h
    refine ⟨_, stepWith_of_nextInstr inp h, rfl, fun u hu hother => ?_⟩
    obtain ⟨-, hrun⟩ := timersCountRunningStepsOnly next _ u hu
    obtain ⟨-, hst, -⟩ := hrun hw
    exact hst hother

/-- Settles O53: the wait and the advance; the next step is then a waiting one, whose lowest key goes to the awaited register. -/
theorem keyReadBeginsTheWait : Obligations.KeyReadBeginsTheWait := by
  refine ⟨fun x s => ?_, fun x inp next s k h hk hdown hlow => ?_⟩
  · exact ⟨_, rfl, rfl, rfl, rfl, (onlyChanges_beginWait s x).trans (onlyChanges_advance _)⟩
  · obtain ⟨-, hscan⟩ := waitingStepScansKeys next ((s.enter inp).tickTimers.beginWait x).advance rfl
    obtain ⟨u, hu, hreg, hwait, -, -, -, hframe⟩ := hscan k hk hdown hlow
    have hpc := hframe .cursor (by simp)
    exact ⟨_, u, stepWith_of_nextInstr inp h, hu, hreg, hwait, hpc⟩

end Sys2Proof.Machine
end

section
/-! PROOFS of the family 60_exceptions: each instruction faults as R171's table says and otherwise completes, which the entry of the
step does not change; then the step, which fetches before it executes (spec/60_exceptions.md R171, R176, R179). -/

namespace Sys2Proof.Machine

/-! ### An answer that is a given fault, or completes -/

/-- `FaultsAs o r`: the answer `r` is the fault `o`, or with `o = none` a next state; it is no refusal. -/
inductive FaultsAs : Option Fault → Result → Prop where
  | fault (f : Fault) : FaultsAs (some f) (.fault f)
  | next (t : State) : FaultsAs none (.next t)

theorem FaultsAs.of_eq_next {r : Result} {t : State} (h : r = .next t) : FaultsAs none r := h ▸ .next t

theorem FaultsAs.eq_fault_iff {o : Option Fault} {r : Result} (h : FaultsAs o r) (f : Fault) : r = .fault f ↔ o = some f := by
  cases h <;> simp

theorem FaultsAs.ne_refused {o : Option Fault} {r : Result} (h : FaultsAs o r) (e : Refusal) : r ≠ .refused e := by
  cases h <;> nofun

/-- A row of R171's table: a fault under a condition, and a next state without it. -/
theorem FaultsAs.row {c : Prop} [Decidable c] {f : Fault} {r : Result} (hfault : c → r = .fault f)
    (hnext : ¬ c → ∃ t, r = .next t) : FaultsAs (if c then some f else none) r := by
  by_cases hc : c
  · rw [if_pos hc, hfault hc]
    exact .fault f
  · obtain ⟨t, ht⟩ := hnext hc
    rw [if_neg hc, ht]
    exact .next t

theorem State.jump_faultsAs (s : State) (addr : Nat) :
    FaultsAs (if 4096 ≤ addr then some (.outOfRange addr) else none) (s.jump addr) :=
  .row s.jump_of_le fun hin => ⟨_, s.jump_of_lt (Nat.not_le.mp hin)⟩

/-- A range-checked instruction faults as its row says if the row's condition is that its bytes end past memory (R46). -/
theorem inRange_faultsAs {c : Prop} [Decidable c] {base count : Nat} (t : State) (hc : c ↔ 4096 < base + count) :
    FaultsAs (if c then some (.outOfRange 4096) else none) (inRange base count (.next t)) :=
  .row (fun hout => inRange_of_lt _ (hc.mp hout)) fun hin => ⟨t, inRange_of_le _ (Nat.not_lt.mp (mt hc.mpr hin))⟩

/-! ### The instructions -/

/-- `RET` tests the empty stack before the popped address (R100, R179). -/
theorem execRet_faultsAs (s : State) : FaultsAs (faultOf .ret s) (execRet s) := by
  by_cases h : s.sp.val = 0
  · simp only [faultOf, h, if_true, execRet_of_empty]
    exact .fault _
  · have hsp : s.sp ≠ 0 := fun h0 => h (congrArg Fin.val h0)
    simp only [faultOf, execRet, h, hsp, if_false]
    exact s.pop.jump_faultsAs _

theorem execCall_faultsAs (nnn : Addr) (s : State) : FaultsAs (faultOf (.call nnn) s) (execCall nnn s) :=
  .row (execCall_of_full nnn) fun h => ⟨_, execCall_eq nnn s (by omega)⟩

theorem execAddIndex_faultsAs (x : RegIx) (s : State) : FaultsAs (faultOf (.addIndex x) s) (execAddIndex x s) :=
  .row execAddIndex_of_le fun h => ⟨_, execAddIndex_of_lt (Nat.not_le.mp h)⟩

theorem execDrw_faultsAs (x y : RegIx) (n : Nibble) (s : State) : FaultsAs (faultOf (.drw x y n) s) (execDrw x y n s) := by
  refine .row (fun ⟨hn, hout⟩ => execDrw_of_lt hn hout) fun h => ⟨_, execDrw_of_le ?_⟩
  rcases Nat.eq_zero_or_pos n.toNat with hn | hn
  · exact .inl (BitVec.eq_of_toNat_eq hn)
  · exact .inr (by omega)

theorem execSkp_faultsAs (x : RegIx) (s : State) : FaultsAs (faultOf (.skp x) s) (execSkp x s) :=
  .row (fun h => (execSkp_execSknp_of_lt h).1) fun h => ⟨_, execSkp_of_le (Nat.not_lt.mp h)⟩

theorem execSknp_faultsAs (x : RegIx) (s : State) : FaultsAs (faultOf (.sknp x) s) (execSknp x s) :=
  .row (fun h => (execSkp_execSknp_of_lt h).2) fun h => ⟨_, execSknp_of_le (Nat.not_lt.mp h)⟩

/-- Every instruction in every state faults as R171's table says, and otherwise completes (R171, R176). -/
theorem exec_faultsAs (i : Instr) (s : State) : FaultsAs (faultOf i s) (exec i s) := by
  cases i with
  | ret => exact execRet_faultsAs s
  | jp nnn => exact .of_eq_next (execJp_eq nnn s)
  | call nnn => exact execCall_faultsAs nnn s
  | jpV0 nnn => exact s.jump_faultsAs (offsetTarget s nnn)
  | addIndex x => exact execAddIndex_faultsAs x s
  | drw x y n => exact execDrw_faultsAs x y n s
  | ldBcd x | storeRegs x | loadRegs x => exact inRange_faultsAs _ (by rw [dataAddr_zero]; omega)
  | skp x => exact execSkp_faultsAs x s
  | sknp x => exact execSknp_faultsAs x s
  | _ => exact .next _

/-! ### The step -/

/-- What the step does before it executes touches nothing that a fault's condition reads (R81, R83, R171). -/
theorem faultOf_enter_tickTimers (i : Instr) (s : State) (inp : Input) :
    faultOf i (s.enter inp).tickTimers = faultOf i s := by
  cases i <;> rfl

/-- A step with a next instruction faults as that instruction does in the entry state (R85, R171). -/
theorem stepWith_faultsAs {s : State} {i : Instr} (inp : Input) (h : s.nextInstr = some i) :
    FaultsAs (faultOf i s) (stepWith inp s) := by
  rw [stepWith_of_nextInstr inp h, ← faultOf_enter_tickTimers i s inp]
  exact exec_faultsAs i _

/-- Fetch faults at a cursor past memory, with the cursor, or on the last byte, with 4096 (R84). -/
theorem State.fetch_eq_error_iff (s : State) (f : Fault) :
    s.fetch = .error f ↔
      (4096 ≤ s.pc.toNat ∧ f = .outOfRange s.pc.toNat) ∨ (s.pc.toNat = 4095 ∧ f = .outOfRange 4096) := by
  rcases s.fetch_cases with ⟨hpc, hf⟩ | ⟨hpc, hf⟩ | ⟨hpc, hf⟩
  · have hin : ¬ 4096 ≤ s.pc.toNat ∧ s.pc.toNat ≠ 4095 := by omega
    simp [hf, hin]
  · simp [hf, hpc, eq_comm]
  · have hne : s.pc.toNat ≠ 4095 := by omega
    simp [hf, hpc, hne, eq_comm]

/-! ### The statement -/

/-- Settles O14: a waiting step completes; a running one faults in fetch, or else as its instruction does in the entry state. -/
theorem stepFaultsExactlyAsTheTableSays : Obligations.StepFaultsExactlyAsTheTableSays := by
  intro inp s
  simp only [← or_assoc, ← State.fetch_eq_error_iff]
  rcases stepWith_cases inp s with ⟨hw, he⟩ | ⟨hw, op, hop, -⟩ | ⟨hw, g, hg, he⟩
  · simp [he, hw]
  · have hi : s.nextInstr = some (decode op) := by simp [State.nextInstr, hw, hop]
    have hstep := stepWith_faultsAs inp hi
    refine ⟨fun f => ?_, hstep.ne_refused⟩
    simp [hstep.eq_fault_iff, hw, hop, hi]
  · have hi : s.nextInstr = none := by simp [State.nextInstr, hw, hg]
    simp [he, hw, hg, hi]

end Sys2Proof.Machine
end

section
/-! PROOFS of the family other, encoding: the encoder and the decoder undo each other, shape by shape of the word; the rows of the
opcode map and the UNKNOWN space follow from that (spec/30_encoding.md R61 to R69). -/

namespace Sys2Proof

/-! ### A word with known fields -/

theorem pack_of_fields {op : Word} {h n : Nibble} (hh : fieldH op = h) (hn : fieldN op = n) :
    pack h (fieldX op) (fieldY op) n = op := by
  rw [← hh, ← hn, ← word_eq_pack]

theorem packXKK_of_fields {op : Word} {h : Nibble} {kk : Byte} (hh : fieldH op = h) (hkk : fieldKK op = kk) :
    packXKK h (fieldX op) kk = op := by
  rw [← hh, ← hkk, ← word_eq_packXKK]

theorem packNNN_of_fieldH {op : Word} {h : Nibble} (hh : fieldH op = h) : packNNN h (fieldNNN op) = op := by
  rw [← hh, ← word_eq_packNNN]

/-! ### The UNKNOWN space -/

/-- The UNKNOWN space by the fields that select an instruction (R63, R65). -/
theorem unknownSpace_iff (op : Word) :
    unknownSpace op = true ↔
      (fieldH op = 0x0#4 ∧ op ≠ 0x00E0#16 ∧ op ≠ 0x00EE#16) ∨
        (fieldH op = 0x8#4 ∧ fieldN op ∈ [0x8#4, 0x9#4, 0xA#4, 0xB#4, 0xC#4, 0xD#4, 0xF#4]) ∨
        (fieldH op = 0xE#4 ∧ fieldKK op ∉ [0x9E#8, 0xA1#8]) ∨
        (fieldH op = 0xF#4 ∧ fieldKK op ∉ [0x07#8, 0x0A#8, 0x15#8, 0x18#8, 0x1E#8, 0x29#8, 0x33#8, 0x55#8, 0x65#8]) := by
  simp [unknownSpace, fieldH, fieldN, fieldKK, or_assoc]

/-! ### Decoding an encoding -/

/-- The words of the UNKNOWN space are those no pattern of the decoder selects (R63, R65). -/
theorem decode_of_unknownSpace {op : Word} (h : unknownSpace op = true) : decode op = .unknown op := by
  rcases (unknownSpace_iff op).mp h with ⟨hh, hcls, hret⟩ | ⟨hh, hn⟩ | ⟨hh, hkk⟩ | ⟨hh, hkk⟩
  · simp [decode, hh, decodeFamily0, hcls, hret]
  · simp only [List.mem_cons, List.not_mem_nil, or_false] at hn
    rcases hn with hn | hn | hn | hn | hn | hn | hn <;> simp [decode, hh, decodeFamily8, hn]
  · simp only [List.mem_cons, List.not_mem_nil, or_false, not_or] at hkk
    simp [decode, hh, decodeFamilyE, hkk]
  · simp only [List.mem_cons, List.not_mem_nil, or_false, not_or] at hkk
    simp [decode, hh, decodeFamilyF, hkk]

/-- The encoding's fields are the operands, and the fixed ones select the instruction's own arm of the decoder (R69). -/
theorem decode_encode {i : Instr} (h : i.wellFormed = true) : decode (encode i) = i := by
  cases i with
  | cls | ret => rfl
  | jp | call | seImm | sneImm | seReg | ldImm | addImm | sneReg | ldIndex | jpV0 | rnd | drw => simp [encode, decode]
  | ldReg | orReg | andReg | xorReg | addReg | subReg | shr | subnReg | shl => simp [encode, decode, decodeFamily8]
  | skp | sknp => simp [encode, decode, decodeFamilyE]
  | ldRegDt | ldRegKey | ldDtReg | ldStReg | addIndex | ldFont | ldBcd | storeRegs | loadRegs =>
    simp [encode, decode, decodeFamilyF]
  | unknown op => exact decode_of_unknownSpace h

/-! ### Encoding a decoding -/

/-- `i` is the instruction of the word `op`: well formed, with `op` as its encoding (R69). -/
def IsInstrOf (op : Word) (i : Instr) : Prop := encode i = op ∧ i.wellFormed = true

theorem IsInstrOf.ite {op : Word} {i j : Instr} {c : Prop} [Decidable c] (hi : c → IsInstrOf op i) (hj : ¬ c → IsInstrOf op j) :
    IsInstrOf op (if c then i else j) := by
  by_cases h : c
  · rw [if_pos h]
    exact hi h
  · rw [if_neg h]
    exact hj h

/-- A word of the UNKNOWN space is its own encoding (R69). -/
theorem isInstrOf_unknown {op : Word} (h : unknownSpace op = true) : IsInstrOf op (.unknown op) := ⟨rfl, h⟩

theorem isInstrOf_decodeFamily0 {op : Word} (h : fieldH op = 0x0) : IsInstrOf op (decodeFamily0 op) :=
  .ite (fun hcls => ⟨hcls.symm, rfl⟩) fun hcls =>
  .ite (fun hret => ⟨hret.symm, rfl⟩) fun hret =>
  isInstrOf_unknown ((unknownSpace_iff op).mpr (.inl ⟨h, hcls, hret⟩))

theorem isInstrOf_decodeFamily8 {op : Word} (h : fieldH op = 0x8) : IsInstrOf op (decodeFamily8 op) := by
  iterate 9 refine .ite (fun hn => ⟨pack_of_fields h hn, rfl⟩) fun _ => ?_
  have hn : fieldN op ∈ [0x8#4, 0x9#4, 0xA#4, 0xB#4, 0xC#4, 0xD#4, 0xF#4] := by
    simp only [List.mem_cons, List.not_mem_nil, or_false]
    bv_omega
  exact isInstrOf_unknown ((unknownSpace_iff op).mpr (.inr (.inl ⟨h, hn⟩)))

theorem isInstrOf_decodeFamilyE {op : Word} (h : fieldH op = 0xE) : IsInstrOf op (decodeFamilyE op) := by
  iterate 2 refine .ite (fun hkk => ⟨packXKK_of_fields h hkk, rfl⟩) fun _ => ?_
  exact isInstrOf_unknown ((unknownSpace_iff op).mpr (.inr (.inr (.inl ⟨h, by simp [*]⟩))))

theorem isInstrOf_decodeFamilyF {op : Word} (h : fieldH op = 0xF) : IsInstrOf op (decodeFamilyF op) := by
  iterate 9 refine .ite (fun hkk => ⟨packXKK_of_fields h hkk, rfl⟩) fun _ => ?_
  exact isInstrOf_unknown ((unknownSpace_iff op).mpr (.inr (.inr (.inr ⟨h, by simp [*]⟩))))

/-- Whatever the word, the decoder gives its instruction: one high nibble after another (R63). -/
theorem isInstrOf_decode (op : Word) : IsInstrOf op (decode op) := by
  refine .ite isInstrOf_decodeFamily0 fun _ => ?_
  iterate 2 refine .ite (fun h => ⟨packNNN_of_fieldH h, rfl⟩) fun _ => ?_
  iterate 2 refine .ite (fun h => ⟨packXKK_of_fields h rfl, rfl⟩) fun _ => ?_
  refine .ite (fun h => ⟨pack_of_fields h rfl, rfl⟩) fun _ => ?_
  iterate 2 refine .ite (fun h => ⟨packXKK_of_fields h rfl, rfl⟩) fun _ => ?_
  refine .ite isInstrOf_decodeFamily8 fun _ => ?_
  refine .ite (fun h => ⟨pack_of_fields h rfl, rfl⟩) fun _ => ?_
  iterate 2 refine .ite (fun h => ⟨packNNN_of_fieldH h, rfl⟩) fun _ => ?_
  refine .ite (fun h => ⟨packXKK_of_fields h rfl, rfl⟩) fun _ => ?_
  refine .ite (fun h => ⟨pack_of_fields h rfl, rfl⟩) fun _ => ?_
  refine .ite isInstrOf_decodeFamilyE fun _ => isInstrOf_decodeFamilyF ?_
  bv_omega

/-! ### The UNKNOWN space in numbers -/

theorem fieldH_toNat (op : Word) : (fieldH op).toNat = op.toNat / 4096 := by
  have hop := op.isLt
  rw [fieldH, BitVec.extractLsb'_toNat, Nat.shiftRight_eq_div_pow]
  omega

theorem fieldN_toNat (op : Word) : (fieldN op).toNat = op.toNat % 16 := by
  simp [fieldN]

theorem fieldKK_toNat (op : Word) : (fieldKK op).toNat = op.toNat % 256 := by
  simp [fieldKK]

/-- The UNKNOWN space as R65 lists it, by number. -/
theorem unknownSpace_iff_toNat (op : Word) :
    unknownSpace op = true ↔
      (op.toNat < 0x1000 ∧ op.toNat ≠ 0x0E0 ∧ op.toNat ≠ 0x0EE) ∨
        (0x8000 ≤ op.toNat ∧ op.toNat < 0x9000 ∧ op.toNat % 16 ∈ [0x8, 0x9, 0xA, 0xB, 0xC, 0xD, 0xF]) ∨
        (0xE000 ≤ op.toNat ∧ op.toNat < 0xF000 ∧ op.toNat % 256 ∉ [0x9E, 0xA1]) ∨
        (0xF000 ≤ op.toNat ∧ op.toNat % 256 ∉ [0x07, 0x0A, 0x15, 0x18, 0x1E, 0x29, 0x33, 0x55, 0x65]) := by
  have hop := op.isLt
  simp only [unknownSpace_iff, List.mem_cons, List.not_mem_nil, or_false, ← BitVec.toNat_inj, ne_eq, fieldH_toNat, fieldN_toNat,
    fieldKK_toNat, BitVec.toNat_ofNat]
  omega

/-! ### The rows of the opcode map -/

theorem decode_of_encode {op : Word} {i : Instr} (hwf : i.wellFormed = true) (h : encode i = op) : decode op = i :=
  h ▸ decode_encode hwf

/-- The mask of a row that fixes the high nibble (R64). -/
theorem fieldH_of_mask {op : Word} {h : Nibble} (hrow : op &&& 0xF000 = packNNN h 0) : fieldH op = h := by
  rw [word_eq_packNNN op, Laws.OpcodeRow.packNNN_row] at hrow
  simpa using congrArg fieldH hrow

theorem packNNN_of_mask {op : Word} {h : Nibble} (hrow : op &&& 0xF000 = packNNN h 0) : packNNN h (fieldNNN op) = op :=
  packNNN_of_fieldH (fieldH_of_mask hrow)

theorem packXKK_of_mask {op : Word} {h : Nibble} (hrow : op &&& 0xF000 = packNNN h 0) :
    packXKK h (fieldX op) (fieldKK op) = op := packXKK_of_fields (fieldH_of_mask hrow) rfl

theorem pack_of_mask {op : Word} {h : Nibble} (hrow : op &&& 0xF000 = packNNN h 0) :
    pack h (fieldX op) (fieldY op) (fieldN op) = op := pack_of_fields (fieldH_of_mask hrow) rfl

/-- The mask of a row that fixes the high and the low nibble (R64). -/
theorem pack_of_mask_nibbles {op : Word} {h n : Nibble} (hrow : op &&& 0xF00F = pack h 0 0 n) :
    pack h (fieldX op) (fieldY op) n = op := by
  rw [word_eq_pack op, Laws.OpcodeRow.pack_row_nibbles] at hrow
  exact pack_of_fields (by simpa using congrArg fieldH hrow) (by simpa using congrArg fieldN hrow)

/-- The mask of a row that fixes the high nibble and the low byte (R64). -/
theorem packXKK_of_mask_byte {op : Word} {h : Nibble} {kk : Byte} (hrow : op &&& 0xF0FF = packXKK h 0 kk) :
    packXKK h (fieldX op) kk = op := by
  rw [word_eq_packXKK op, Laws.OpcodeRow.packXKK_row_byte] at hrow
  exact packXKK_of_fields (by simpa using congrArg fieldH hrow) (by simpa using congrArg fieldKK hrow)

/-! ### The statements -/

/-- Settles O1: constructor by constructor, through the fields of the packed word. -/
theorem decodeOfEncodeIsIdentity : Obligations.DecodeOfEncodeIsIdentity := fun _ => decode_encode

/-- Settles O2: in each arm of the decoder the fields taken apart make up the word. -/
theorem encodeOfDecodeIsIdentity : Obligations.EncodeOfDecodeIsIdentity := isInstrOf_decode

/-- Settles O4: UNKNOWN encodes as the word it carries, so only `op` itself can be it, and that is one of the UNKNOWN space. -/
theorem unknownSpaceIsExactlyTheListedWords : Obligations.UnknownSpaceIsExactlyTheListedWords := by
  intro op w
  rw [← unknownSpace_iff_toNat]
  constructor
  · intro h
    obtain ⟨henc, hwf⟩ := h ▸ isInstrOf_decode op
    obtain rfl : w = op := henc
    exact ⟨rfl, hwf⟩
  · rintro ⟨rfl, hop⟩
    exact decode_of_unknownSpace hop

/-- Settles O3: each row's mask fixes the fields that its encodings fix, so the word is such an encoding. -/
theorem decodeFollowsOpcodeMap : Obligations.DecodeFollowsOpcodeMap := by
  refine fun _ => ⟨fun h => h ▸ rfl, fun h => h ▸ rfl, ?_⟩
  iterate 2 refine ⟨fun h => decode_of_encode rfl (packNNN_of_mask h), ?_⟩
  iterate 2 refine ⟨fun h => decode_of_encode rfl (packXKK_of_mask h), ?_⟩
  refine ⟨fun h => decode_of_encode rfl (pack_of_mask h), ?_⟩
  iterate 2 refine ⟨fun h => decode_of_encode rfl (packXKK_of_mask h), ?_⟩
  iterate 9 refine ⟨fun h => decode_of_encode rfl (pack_of_mask_nibbles h), ?_⟩
  refine ⟨fun h => decode_of_encode rfl (pack_of_mask h), ?_⟩
  iterate 2 refine ⟨fun h => decode_of_encode rfl (packNNN_of_mask h), ?_⟩
  refine ⟨fun h => decode_of_encode rfl (packXKK_of_mask h), ?_⟩
  refine ⟨fun h => decode_of_encode rfl (pack_of_mask h), ?_⟩
  iterate 10 refine ⟨fun h => decode_of_encode rfl (packXKK_of_mask_byte h), ?_⟩
  exact fun h => decode_of_encode rfl (packXKK_of_mask_byte h)

/-- Settles O5: the decoder computes each of the words. -/
theorem specWordsDecode : Obligations.SpecWordsDecode := by
  unfold Obligations.SpecWordsDecode
  decide

end Sys2Proof
end

section
/-! PROOFS of the family other, the invariant: initialisation meets it, and every instruction fetched from memory keeps each of its
four parts (spec/10_state.md R30, spec/70_reset_and_hazards.md R190). -/

namespace Sys2Proof.Machine

/-! ### Initialisation -/

/-- A write of what an unlisted address reads as lists nothing (log 4). -/
theorem Memory.write_nil_unlisted (a : Nat) : Memory.write [] a (Memory.unlisted a) = [] := by
  simp [Memory.write]

/-- Loading what the addresses read as anyway lists nothing (log 4). -/
theorem loadBytes_unlisted (bytes : List Byte) (a : Nat) (h : ∀ (k : Nat) (hk : k < bytes.length), bytes[k] = Memory.unlisted (a + k)) :
    loadBytes [] a bytes = [] := by
  induction bytes generalizing a with
  | nil => rfl
  | cons b bs ih =>
    have hb : b = Memory.unlisted a := h 0 (Nat.zero_lt_succ _)
    have hbs : loadBytes [] (a + 1) bs = [] := by
      refine ih _ fun k hk => ?_
      rw [Nat.add_right_comm]
      exact h (k + 1) (Nat.succ_lt_succ hk)
    rw [loadBytes, hb, Memory.write_nil_unlisted, hbs, ite_self]

/-- The default font is what the font region reads as unlisted (R41, R42). -/
theorem loadBytes_defaultFont : loadBytes [] 0 defaultFont.toList = [] := by
  refine loadBytes_unlisted _ _ fun k hk => ?_
  have hfont : k < 80 := by simpa using hk
  simp [Memory.unlisted, hfont]

/-- Settles O7: initialisation is the reset state but for memory, and the default font is what reset memory reads as. -/
theorem initLeavesTheResetValues : Obligations.InitLeavesTheResetValues := by
  refine ⟨fun font image => ⟨fun r => ?_, rfl, rfl, fun k => ?_, rfl, rfl, rfl, rfl, rfl, rfl, Frame.pixel_blank, rfl, rfl⟩, ?_⟩
  · exact Vector.getElem_replicate r.isLt
  · exact Vector.getElem_replicate k.isLt
  · have hmem : loadBytes State.reset.mem 0 defaultFont.toList = State.reset.mem := loadBytes_defaultFont
    rw [State.init, hmem, loadBytes]

/-- Settles O17: no slot is live, and loading keeps the canonical form. -/
theorem initMeetsTheInvariant : Obligations.InitMeetsTheInvariant := by
  have hinit (font : Vector Byte 80) (image : List Byte) : (State.init font image).Inv :=
    ⟨Nat.zero_le _, by simp [State.init, State.reset], fun k hk => absurd hk k.val.not_lt_zero, wf_loadBytes _ _ _ (wf_loadBytes _ _ _ Memory.wf_reset)⟩
  obtain ⟨-, hreset⟩ := initLeavesTheResetValues
  exact ⟨hinit, hreset ▸ hinit defaultFont []⟩

/-! ### What an instruction keeps of the invariant -/

/-- A cursor short of 65534 is advanced without a wrap (R86). -/
theorem toNat_add_two {w : Word} (h : w.toNat + 2 < 65536) : (w + 2).toNat = w.toNat + 2 := BitVec.toNat_add_of_lt h

/-- A cursor short of 65532 skips without a wrap (R87). -/
theorem toNat_add_four {w : Word} (h : w.toNat + 4 < 65536) : (w + 4).toNat = w.toNat + 4 := BitVec.toNat_add_of_lt h

/-- The three writers of `I` write an address field, at most 5 * 255, or a sum checked to be below 4096 (R12). -/
theorem exec_idx_le {i : Instr} {s t : State} (h : exec i s = .next t) (hs : s.idx.toNat ≤ 4095) : t.idx.toNat ≤ 4095 := by
  obtain ⟨hidx, -⟩ := onlyTheListedInstructionsWriteEachState i s t h
  cases i with
  | ldIndex nnn =>
    cases h
    exact Nat.le_of_lt_succ (addrWord_lt nnn)
  | ldFont x =>
    cases h
    have hx := (s.reg x).isLt
    change (glyphAddr (s.reg x)).toNat ≤ 4095
    rw [glyphAddr_toNat]
    omega
  | addIndex x =>
    obtain ⟨hsum, rfl⟩ := execAddIndex_next h
    change (BitVec.ofNat 16 (indexSum s x)).toNat ≤ 4095
    rw [BitVec.toNat_ofNat]
    omega
  | _ =>
    rw [hidx nofun nofun nofun]
    exact hs

/-- From a word inside memory the cursor reaches at most 4098 (R13). -/
theorem exec_pc_le {i : Instr} {s t : State} (h : exec i s = .next t) (hpc : s.pc.toNat + 1 < 4096) : t.pc.toNat ≤ 4099 := by
  have htwo : (s.pc + 2).toNat = s.pc.toNat + 2 := toNat_add_two (by omega)
  have hfour : (s.pc + 4).toNat = s.pc.toNat + 4 := toNat_add_four (by omega)
  cases exec_cursorMove h with
  | jump _ hlt => omega
  | skip _ hmove => rcases hmove with he | he <;> rw [he] <;> omega
  | advance _ hmove => rw [hmove]; omega

/-- `CALL` makes live the slot it has filled with the address after itself, `RET` makes one slot dead, and no other instruction
touches the stack (R14, R15). -/
theorem exec_slot_range {i : Instr} {s t : State} (h : exec i s = .next t) (hpc : s.pc.toNat + 1 < 4096)
    (hs : ∀ k : Fin 16, k.val < s.sp.val → 2 ≤ s.stack[k.val].toNat ∧ s.stack[k.val].toNat ≤ 4096) (k : Fin 16)
    (hk : k.val < t.sp.val) : 2 ≤ t.stack[k.val].toNat ∧ t.stack[k.val].toNat ≤ 4096 := by
  obtain ⟨-, hstack, hsp, -⟩ := onlyTheListedInstructionsWriteEachState i s t h
  cases i with
  | call nnn =>
    obtain ⟨hroom, rfl⟩ := execCall_next h
    have hpush : (s.pc + 2).toNat = s.pc.toNat + 2 := toNat_add_two (by omega)
    by_cases hnew : s.sp.val = k.val
    · simp only [State.push_stack, hnew, Vector.getElem_set_self, hpush]
      omega
    · simp only [State.push_stack, Vector.getElem_set_ne _ _ hnew]
      simp only [State.push_sp] at hk
      exact hs k (by omega)
  | ret =>
    obtain ⟨-, -, rfl⟩ := execRet_next h
    simp only [State.pop_sp] at hk
    exact hs k (by omega)
  | _ =>
    have hst := hstack nofun
    rw [hsp nofun nofun] at hk
    simpa only [hst] using hs k hk

/-- The two writers of memory write inside the address space, which keeps the canonical form (log 4). -/
theorem exec_mem_wf {i : Instr} {s t : State} (h : exec i s = .next t) (hs : s.mem.wf = true) : t.mem.wf = true := by
  obtain ⟨-, -, -, -, -, -, -, -, hmem, -⟩ := onlyTheListedInstructionsWriteEachState i s t h
  cases i with
  | ldBcd x =>
    obtain ⟨hin, rfl⟩ := execLdBcd_next h
    simp only [dataAddr] at hin
    refine Memory.wf_write _ _ _ ?_ (Memory.wf_write _ _ _ ?_ (Memory.wf_write _ _ _ ?_ hs)) <;> rw [dataAddr] <;> omega
  | storeRegs x =>
    obtain ⟨hin, rfl⟩ := execStoreRegs_next h
    exact s.wf_storeBlock _ _ hin hs
  | _ =>
    rw [hmem nofun nofun]
    exact hs

/-- An instruction that lies in memory keeps the invariant (R30). -/
theorem exec_inv {i : Instr} {s t : State} (h : exec i s = .next t) (hpc : s.pc.toNat + 1 < 4096) (hs : s.Inv) : t.Inv :=
  ⟨exec_idx_le h hs.idx_le, exec_pc_le h hpc, exec_slot_range h hpc hs.slot_range, exec_mem_wf h hs.mem_wf⟩

/-! ### The step -/

/-- The invariant speaks of `I`, the cursor, the stack and memory only (R30). -/
theorem State.Inv.of_eq {s t : State} (hs : s.Inv) (hidx : t.idx = s.idx) (hpc : t.pc = s.pc) (hstack : t.stack = s.stack)
    (hsp : t.sp = s.sp) (hmem : t.mem = s.mem) : t.Inv := by
  obtain ⟨h1, h2, h3, h4⟩ := hs
  constructor <;> simpa only [hidx, hpc, hstack, hsp, hmem]

theorem State.Inv.waitingBranch {s : State} (hs : s.Inv) : s.waitingBranch.Inv := by
  rcases s.waitingBranch_cases with ⟨_, he⟩ | ⟨k, _, he⟩
  · rw [he]
    exact hs
  · rw [he]
    exact hs.of_eq rfl rfl rfl rfl rfl

theorem stepWith_inv {inp : Input} {s t : State} (hs : s.Inv) (h : stepWith inp s = .next t) : t.Inv := by
  have henter : (s.enter inp).Inv := hs.of_eq rfl rfl rfl rfl rfl
  rcases stepWith_cases inp s with ⟨_, he⟩ | ⟨_, op, hop, he⟩ | ⟨_, f, _, he⟩
  · rw [he] at h
    cases h
    exact henter.waitingBranch
  · rcases s.fetch_cases with ⟨hpc, _⟩ | ⟨_, hf⟩ | ⟨_, hf⟩
    · rw [he] at h
      exact exec_inv h hpc (henter.of_eq rfl rfl rfl rfl rfl)
    · simp [hf] at hop
    · simp [hf] at hop
  · rw [he] at h
    cases h

/-- Settles O16: a waiting step touches no part of the invariant; a running one executes an instruction that lies in memory, and each
part has few writers. -/
theorem stepKeepsTheInvariant : Obligations.StepKeepsTheInvariant :=
  ⟨fun _ _ hs h => stepWith_inv (hs.of_eq rfl rfl rfl rfl rfl : (State.takeInput _).Inv) h, fun _ _ _ hs h => stepWith_inv hs h⟩

end Sys2Proof.Machine
end

section
/-! PROOFS of the family other, noninterference: an instruction run with another value in a register it does not read, or in a step
with another random byte, answers alike (spec/10_state.md R27, spec/42_alu.md R132). -/

namespace Sys2Proof.Machine

/-! ### Answers alike -/

/-- `AnswersAlike g p q`: the answer `q` is the same fault as `p`, or completes in `g` of the state in which `p` completes. -/
inductive AnswersAlike (g : State → State) : Result → Result → Prop where
  | next (t : State) : AnswersAlike g (.next t) (.next (g t))
  | fault (f : Fault) : AnswersAlike g (.fault f) (.fault f)

theorem AnswersAlike.next_and_fault {g : State → State} {p q : Result} (h : AnswersAlike g p q) :
    (∀ t, p = .next t → q = .next (g t)) ∧ ∀ f, p = .fault f → q = .fault f := by
  cases h <;> simp

theorem AnswersAlike.of_eq {g : State → State} {t u : State} (h : u = g t) : AnswersAlike g (.next t) (.next u) :=
  h ▸ .next t

/-- A check that comes out alike on both sides: both fault, or both go on. -/
theorem AnswersAlike.check {g : State → State} {c : Prop} [Decidable c] {f : Fault} {p q : Result} (h : AnswersAlike g p q) :
    AnswersAlike g (if c then raise f else p) (if c then raise f else q) := by
  by_cases hc : c
  · rw [if_pos hc, if_pos hc]
    exact .fault f
  · rwa [if_neg hc, if_neg hc]

/-- The same for a check whose outcome the rest makes use of, as `CALL` does of the room on the stack. -/
theorem AnswersAlike.dcheck {g : State → State} {c : Prop} [Decidable c] {f : Fault} {p q : c → Result}
    (h : ∀ hc, AnswersAlike g (p hc) (q hc)) :
    AnswersAlike g (if hc : c then p hc else raise f) (if hc : c then q hc else raise f) := by
  by_cases hc : c
  · rw [dif_pos hc, dif_pos hc]
    exact h hc
  · rw [dif_neg hc, dif_neg hc]
    exact .fault f

/-- Two states that draw the same canvas answer `DRW` alike, if `g` makes up for their difference (R151). -/
theorem execDrw_alike {g : State → State} {s u : State} {x y : RegIx} {n : Nibble} (hidx : u.idx = s.idx)
    (hdrawn : u.drawn x y n = s.drawn x y n)
    (hg : ∀ cv : Canvas, ((u.setFb cv.fb).setFlag cv.hit).advance = g ((s.setFb cv.fb).setFlag cv.hit).advance) :
    AnswersAlike g (execDrw x y n s) (execDrw x y n u) := by
  by_cases hin : n = 0 ∨ s.idx.toNat + n.toNat ≤ 4096
  · rw [execDrw_of_le hin, execDrw_of_le (hidx ▸ hin), hdrawn]
    exact .of_eq (hg _)
  · obtain ⟨hn, hout⟩ := not_or.mp hin
    have hpos : 0 < n.toNat := Nat.pos_of_ne_zero fun h0 => hn (BitVec.eq_of_toNat_eq h0)
    have hlt : 4096 < s.idx.toNat + n.toNat := Nat.not_le.mp hout
    rw [execDrw_of_lt hpos hlt, execDrw_of_lt hpos (hidx ▸ hlt)]
    exact .fault _

/-- A stored block is made of memory and of the registers stored, and of nothing else (R144). -/
theorem State.storeBlock_congr {s u : State} (base count : Nat) (hmem : u.mem = s.mem)
    (hreg : ∀ k < count, u.reg (BitVec.ofNat 4 k) = s.reg (BitVec.ofNat 4 k)) : u.storeBlock base count = s.storeBlock base count := by
  induction count with
  | zero => exact hmem
  | succ k ih => rw [State.storeBlock, State.storeBlock, ih fun j hj => hreg j (by omega), hreg k (by omega)]

/-! ### Another random byte -/

/-- The sampled byte exchanged for another. -/
def State.withRnd (b : Byte) (s : State) : State := { s with rndIn := b }

theorem State.withRnd_skipIf (b : Byte) (s : State) (c : Bool) : (s.withRnd b).skipIf c = (s.skipIf c).withRnd b := by
  cases c <;> rfl

theorem State.withRnd_loadBlock (b : Byte) (s : State) (base count : Nat) :
    (s.withRnd b).loadBlock base count = (s.loadBlock base count).withRnd b := by
  induction count with
  | zero => rfl
  | succ k ih =>
    rw [State.loadBlock, ih]
    rfl

theorem State.withRnd_waitingBranch (b : Byte) (s : State) : (s.withRnd b).waitingBranch = s.waitingBranch.withRnd b := by
  have hkey : (s.withRnd b).key = s.key := rfl
  simp only [State.waitingBranch, hkey]
  cases lowestKey s.key <;> rfl

/-- Only `RND` looks at the sampled byte (R132). -/
theorem exec_withRnd {i : Instr} (b : Byte) (s : State) (hi : ∀ x kk, i ≠ .rnd x kk) :
    AnswersAlike (.withRnd b) (exec i s) (exec i (s.withRnd b)) := by
  cases i with
  | rnd x kk => exact absurd rfl (hi x kk)
  | ret => exact .check (.check (.next _))
  | jp | jpV0 | addIndex | ldBcd => exact .check (.next _)
  | call => exact .dcheck fun _ => .check (.next _)
  | seImm | sneImm | seReg | sneReg => exact .of_eq (s.withRnd_skipIf b _)
  | skp | sknp => exact .check (.of_eq (s.withRnd_skipIf b _))
  | drw x y n => exact execDrw_alike rfl rfl fun _ => rfl
  | storeRegs x =>
    have hblock := State.storeBlock_congr (s := s) (u := s.withRnd b) (dataAddr s 0) (x.toNat + 1) rfl fun _ _ => rfl
    exact .check (.of_eq (congrArg (fun m => ((s.withRnd b).setMem m).advance) hblock))
  | loadRegs x => exact .check (.of_eq (congrArg State.advance (s.withRnd_loadBlock b _ _)))
  | _ => exact .next _

/-- A running step whose fetch faults is that fault (R84). -/
theorem stepWith_of_fetch_error {inp : Input} {s : State} {f : Fault} (hw : s.wait = false) (hf : s.fetch = .error f) :
    stepWith inp s = .fault f := by
  simp [stepWith, State.runningBranch, hw, hf, raise]

/-- Settles O22: the waiting branch does not look at the sampled byte, fetch does not, and of the instructions only `RND` does. -/
theorem randomByteReachesOnlyRnd : Obligations.RandomByteReachesOnlyRnd := by
  intro keys a b s hi
  suffices h : AnswersAlike (.withRnd b) (stepWith ⟨keys, a⟩ s) (stepWith ⟨keys, b⟩ s) from h.next_and_fault
  cases hw : s.wait with
  | true =>
    simp only [stepWith, hw, if_true]
    exact .of_eq ((s.enter ⟨keys, a⟩).withRnd_waitingBranch b)
  | false =>
    cases hf : s.fetch with
    | ok op =>
      have hnext : s.nextInstr = some (decode op) := by simp [State.nextInstr, hw, hf]
      rw [stepWith_of_fetch hw hf, stepWith_of_fetch hw hf]
      exact exec_withRnd b (s.enter ⟨keys, a⟩).tickTimers fun x kk he => hi x kk (he ▸ hnext)
    | error f =>
      rw [stepWith_of_fetch_error hw hf, stepWith_of_fetch_error hw hf]
      exact .fault f

/-! ### Another value in a register -/

/-- A register overwritten with `b`, unless it has since been written (`w`). -/
def State.setRegUnless (w : Bool) (r : RegIx) (b : Byte) (t : State) : State := if w then t else t.setReg r b

theorem State.setReg_setReg_same (s : State) (r : RegIx) (b c : Byte) : (s.setReg r b).setReg r c = s.setReg r c := by
  simp [State.setReg]

theorem State.setReg_comm (s : State) {r x : RegIx} (h : r ≠ x) (b c : Byte) :
    (s.setReg r b).setReg x c = (s.setReg x c).setReg r b := by
  have hne : r.toNat ≠ x.toNat := fun he => h (BitVec.eq_of_toNat_eq he)
  simp only [State.setReg]
  rw [Vector.set_comm _ _ hne]

/-- A write to a register removes what it was overwritten with, and leaves another register's. -/
theorem State.setRegUnless_setReg (s : State) (w : Bool) (r x : RegIx) (b c : Byte) :
    (s.setRegUnless w r b).setReg x c = (s.setReg x c).setRegUnless (w || r == x) r b := by
  cases w with
  | true => rfl
  | false =>
    by_cases h : r = x
    · subst h
      simp [State.setRegUnless, State.setReg_setReg_same]
    · simp [State.setRegUnless, h, s.setReg_comm h]

theorem State.setReg_skipIf (s : State) (r : RegIx) (b : Byte) (c : Bool) : (s.setReg r b).skipIf c = (s.skipIf c).setReg r b := by
  cases c <;> rfl

theorem State.setReg_loadBlock (s : State) (r : RegIx) (b : Byte) (base : Nat) {count : Nat} (h : count ≤ 16) :
    (s.setReg r b).loadBlock base count = (s.loadBlock base count).setRegUnless (decide (r.toNat < count)) r b := by
  induction count with
  | zero => rfl
  | succ k ih =>
    have hr : (decide (r.toNat < k) || r == BitVec.ofNat 4 k) = decide (r.toNat < k + 1) := by
      rw [Bool.eq_iff_iff]
      simp only [Bool.or_eq_true, decide_eq_true_eq, beq_iff_eq, ← BitVec.toNat_inj, BitVec.toNat_ofNat]
      omega
    rw [State.loadBlock, ih (by omega), State.setRegUnless_setReg, hr, State.setReg_byteAt]
    rfl

theorem State.setRegUnless_advance (s : State) (w : Bool) (r : RegIx) (b : Byte) :
    (s.setRegUnless w r b).advance = s.advance.setRegUnless w r b := by
  cases w <;> rfl

/-- A register write in the overwritten state. -/
theorem State.setReg_setReg_advance (s : State) (r x : RegIx) (b c : Byte) :
    ((s.setReg r b).setReg x c).advance = (s.setReg x c).advance.setRegUnless (r == x) r b := by
  rw [← State.setRegUnless_advance]
  exact congrArg State.advance (s.setRegUnless_setReg false r x b c)

/-- A result and its flag in the overwritten state. -/
theorem State.setReg_setResultFlag_advance (s : State) (r x : RegIx) (b c : Byte) (f : Bool) :
    ((s.setReg r b).setResultFlag x c f).advance = (s.setResultFlag x c f).advance.setRegUnless (r == x || r == 15#4) r b := by
  have hresult := s.setRegUnless_setReg false r x b c
  have hflag := (s.setReg x c).setRegUnless_setReg (r == x) r regF b (flagByte f)
  rw [← State.setRegUnless_advance]
  exact congrArg State.advance ((congrArg (·.setFlag f) hresult).trans hflag)

/-- The registers marked R hold what they held, if the register overwritten is not one of them. -/
theorem setReg_reg_of_reads {i : Instr} {r q : RegIx} {b : Byte} {s : State} (hr : readsReg i r = false)
    (hq : readsReg i q = true) : (s.setReg r b).reg q = s.reg q := by
  have hne : q ≠ r := by
    rintro rfl
    simp [hq] at hr
  simp [hne]

/-- An instruction answers alike whatever is in a register that it is not marked to read, and a register that it is marked to write
holds the same afterwards (R27). -/
theorem exec_setReg {i : Instr} {r : RegIx} (b : Byte) (s : State) (hr : readsReg i r = false) :
    AnswersAlike (.setRegUnless (writesReg i r) r b) (exec i s) (exec i (s.setReg r b)) := by
  have hreg (q : RegIx) (hq : readsReg i q = true) : (s.setReg r b).reg q = s.reg q := setReg_reg_of_reads hr hq
  cases i with
  | ret => exact .check (.check (.next _))
  | jp => exact .check (.next _)
  | call => exact .dcheck fun _ => .check (.next _)
  | jpV0 =>
    simp only [exec, execJpV0, offsetTarget, hreg 0#4 rfl]
    exact .check (.next _)
  | seImm x | sneImm x =>
    have hx := hreg x (by simp [readsReg])
    simp only [exec, execSeImm, execSneImm, hx]
    exact .of_eq (s.setReg_skipIf r b _)
  | seReg x y | sneReg x y =>
    have hx := hreg x (by simp [readsReg])
    have hy := hreg y (by simp [readsReg])
    simp only [exec, execSeReg, execSneReg, hx, hy]
    exact .of_eq (s.setReg_skipIf r b _)
  | skp x | sknp x =>
    have hx := hreg x (by simp [readsReg])
    simp only [exec, execSkp, execSknp, hx]
    exact .check (.of_eq (s.setReg_skipIf r b _))
  | ldImm | rnd | ldRegDt => exact .of_eq (s.setReg_setReg_advance r _ b _)
  | addImm x | ldReg _ x =>
    simp only [exec, execAddImm, execLdReg, hreg x (by simp [readsReg])]
    exact .of_eq (s.setReg_setReg_advance r _ b _)
  | orReg x y | andReg x y | xorReg x y =>
    have hx := hreg x (by simp [readsReg])
    have hy := hreg y (by simp [readsReg])
    simp only [exec, execOr, execAnd, execXor, hx, hy]
    exact .of_eq (s.setReg_setReg_advance r x b _)
  | addReg x y | subReg x y | subnReg x y =>
    have hx := hreg x (by simp [readsReg])
    have hy := hreg y (by simp [readsReg])
    simp only [exec, execAddReg, execSub, execSubn, hx, hy]
    exact .of_eq (s.setReg_setResultFlag_advance r x b _ _)
  | shr x | shl x =>
    have hx := hreg x (by simp [readsReg])
    simp only [exec, execShr, execShl, hx]
    exact .of_eq (s.setReg_setResultFlag_advance r x b _ _)
  | addIndex x =>
    simp only [exec, execAddIndex, indexSum, State.setReg_idx, hreg x (by simp [readsReg])]
    exact .check (.of_eq ((s.setIdx (BitVec.ofNat 16 (indexSum s x))).setReg_setReg_advance r regF b (flagByte (indexFlag s.idx))))
  | drw x y n =>
    have hx := hreg x (by simp [readsReg])
    have hy := hreg y (by simp [readsReg])
    have hdrawn : (s.setReg r b).drawn x y n = s.drawn x y n := by
      rw [State.drawn, hx, hy]
      rfl
    exact execDrw_alike rfl hdrawn fun cv => (s.setFb cv.fb).setReg_setReg_advance r regF b (flagByte cv.hit)
  | ldDtReg x | ldStReg x | ldFont x =>
    simp only [exec, execLdDtReg, execLdStReg, execLdFont, hreg x (by simp [readsReg])]
    exact .next _
  | ldBcd x =>
    simp only [exec, execLdBcd, hreg x (by simp [readsReg])]
    exact .check (.next _)
  | storeRegs x =>
    have hle (k : Nat) (hk : k < x.toNat + 1) : BitVec.ofNat 4 k ≤ x := by
      rw [BitVec.le_def, BitVec.toNat_ofNat]
      omega
    have hblock := State.storeBlock_congr (s := s) (u := s.setReg r b) (dataAddr s 0) (x.toNat + 1) rfl fun k hk =>
      hreg _ (decide_eq_true (hle k hk))
    exact .check (.of_eq (congrArg (fun m => ((s.setReg r b).setMem m).advance) hblock))
  | loadRegs x =>
    have hw : writesReg (.loadRegs x) r = decide (r.toNat < x.toNat + 1) := by simp [writesReg, BitVec.le_def]
    have hblock := s.setReg_loadBlock r b (dataAddr s 0) x.isLt
    rw [hw]
    exact .check (.of_eq ((congrArg State.advance hblock).trans (State.setRegUnless_advance ..)))
  | _ => exact .next _

/-- Settles O20: the frame is the W marks, the influence the R marks. -/
theorem registerAccessMatrix : Obligations.RegisterAccessMatrix := fun _ _ b s =>
  ⟨fun _ h hw => exec_reg_eq h hw, fun hr => (exec_setReg b s hr).next_and_fault⟩

end Sys2Proof.Machine
end

section
/-! PROOFS of the family other, instructions in sequence: what a store writes is fetched, `CALL` and `RET`, dump and load, and two
draws undo each other (spec/20_memory.md R50, spec/41_control_flow.md R102, spec/43_index_and_memory.md R145, spec/44_display.md
R151); then the step's input, fetch, the fault codes and the output port. -/

namespace Sys2Proof.Machine

/-! ### A store and the next fetch -/

/-- Fetch of two bytes that are known (R43, R84). -/
theorem State.fetch_of_bytes {s : State} {a : Nat} {b c : Byte} (hpc : s.pc.toNat = a) (ha : a + 1 < 4096) (hb : s.byteAt a = b)
    (hc : s.byteAt (a + 1) = c) : s.fetch = .ok (b ++ c) := by
  subst hpc
  rw [State.fetch_of_lt ha, hb, hc]
  rfl

/-- Settles O23: the cursor after the store is at bytes just stored, which memory reads back. -/
theorem storedBytesAreFetchedNext : Obligations.StoredBytesAreFetchedNext := by
  refine ⟨fun x s k hin hk hpc => ?_, fun x s k hin hk hpc => ?_⟩
  · have hx := x.isLt
    have hnext : (s.pc + 2).toNat = s.idx.toNat + k := (toNat_add_two (by omega)).trans hpc
    have hread (j : Nat) (hj : j ≤ x.toNat) :
        (s.storeBlock (dataAddr s 0) (x.toNat + 1)).read (s.idx.toNat + j) = s.reg (BitVec.ofNat 4 j) := by
      have hblock : s.idx.toNat ≤ s.idx.toNat + j ∧ s.idx.toNat + j < s.idx.toNat + (x.toNat + 1) := by omega
      rw [dataAddr_zero, State.read_storeBlock, if_pos hblock, Nat.add_sub_cancel_left]
    exact ⟨_, inRange_of_le _ (by rw [dataAddr_zero]; omega),
      State.fetch_of_bytes hnext (by omega) (hread k (by omega)) (hread (k + 1) hk)⟩
  · have hnext : (s.pc + 2).toNat = s.idx.toNat + k := (toNat_add_two (by omega)).trans hpc
    obtain ⟨h0, h1, h2⟩ := s.mem.read_write_three s.idx.toNat (bcdHundreds (s.reg x)) (bcdTens (s.reg x)) (bcdUnits (s.reg x))
    refine ⟨_, inRange_of_le _ (by rw [dataAddr_zero]; omega), ?_⟩
    rcases Nat.le_one_iff_eq_zero_or_eq_one.mp hk with rfl | rfl
    · exact State.fetch_of_bytes hnext (by omega) h0 h1
    · exact State.fetch_of_bytes hnext (by omega) h1 h2

/-! ### `CALL` and `RET` -/

/-- Settles O24: the call fills its slot with the address after itself, and the return jumps there and counts the slot off again. -/
theorem callThenReturnIsANoOp : Obligations.CallThenReturnIsANoOp := by
  intro nnn s hsp hpc
  have hpush : (s.pc + 2).toNat = s.pc.toNat + 2 := toNat_add_two (by omega)
  obtain ⟨-, hcall⟩ := callPushesAndJumpsOrOverflows nnn s
  obtain ⟨t, ht, hslot, hspt, -, hframe⟩ := hcall ⟨s.sp.val, hsp⟩ rfl
  obtain ⟨-, hret⟩ := retPopsAndJumpsOrFaults t
  obtain ⟨-, hret⟩ := hret ⟨s.sp.val, hsp⟩ hspt
  obtain ⟨u, hu, hpcu, hspu, hframe'⟩ := hret (by rw [hslot, hpush]; exact hpc)
  refine ⟨t, u, ht, hu, hpcu.trans hslot, fun k hk => ?_, fun k hk => ?_, fun p hp => ?_⟩
  · obtain rfl : k = ⟨s.sp.val, hsp⟩ := Fin.ext hk
    exact (hframe' (.slot _) (by simp)).trans hslot
  · have hne : k ≠ ⟨s.sp.val, hsp⟩ := fun he => hk (congrArg Fin.val he)
    exact (hframe.trans hframe') (.slot k) (by simp [hne])
  · by_cases hsptr : p = .stackPointer
    · subst hsptr
      exact Fin.ext hspu
    · refine (hframe.trans hframe') p fun hmem => hp ?_
      have hparts : p = .slot ⟨s.sp.val, hsp⟩ ∨ p = .cursor := by simpa [hsptr] using hmem
      rcases hparts with rfl | rfl <;> simp

/-! ### A dump and a load -/

/-- The parts `V[0]` to `V[x]` are the registers up to `x`. -/
theorem reg_mem_regPartsTo (x r : RegIx) : Part.reg r ∈ regPartsTo x ↔ r ≤ x := by
  simp only [regPartsTo, List.mem_map, List.mem_range, Part.reg.injEq, BitVec.le_def]
  constructor
  · rintro ⟨k, hk, rfl⟩
    rw [BitVec.toNat_ofNat]
    omega
  · intro hr
    exact ⟨r.toNat, by omega, by simp⟩

/-- Settles O25: the load reads back the bytes of the dump, which the registers in between do not reach. -/
theorem dumpThenLoadRestoresRegisters : Obligations.DumpThenLoadRestoresRegisters := by
  intro x s hin
  obtain ⟨-, hstore⟩ := storeRegistersOrFaults x s
  obtain ⟨t, ht, hbytes, -, hframe⟩ := hstore hin
  have hidx : t.idx = s.idx := hframe .index (by simp [byteParts])
  refine ⟨t, ht, fun v => ?_⟩
  obtain ⟨-, hload⟩ := loadRegistersOrFaults x { t with v := v }
  obtain ⟨u, hu, hregs, -, hframe'⟩ := hload (hidx ▸ hin)
  refine ⟨u, hu, fun r hr => ?_, fun r hr => ?_⟩
  · rw [hregs r hr, ← hbytes r hr, dataAddr, ← hidx]
    rfl
  · exact hframe' (.reg r) (by simp [reg_mem_regPartsTo, BitVec.not_le.mpr hr])

/-! ### Two draws -/

/-- After a draw the same sprite covers the same pixels, unless the flag was one of its coordinates (R151). -/
theorem spriteCovers_iff_of_frame {s t : State} {x y : RegIx} (hx : x ≠ 15#4) (hy : y ≠ 15#4)
    (h : OnlyChangesBesidePixels [.reg 15#4, .changed, .cursor] s t) (n : Nibble) (col : Fin 64) (row : Fin 32) :
    SpriteCovers t x y n col row ↔ SpriteCovers s x y n col row := by
  have hrx : t.reg x = s.reg x := h (.reg x) (by simp [hx]) (by simp)
  have hry : t.reg y = s.reg y := h (.reg y) (by simp [hy]) (by simp)
  have hidx : t.idx = s.idx := h .index (by simp) (by simp)
  have hbyte (a : Nat) : t.byteAt a = s.byteAt a := h (.byte a) (by simp) (by simp)
  simp only [SpriteCovers, hrx, hry, hidx, hbyte]

/-- Settles O26: both draws cover the same pixels, which the first inverts and the second inverts back; over clear pixels the second
finds them set. -/
theorem drawingTwiceRestoresTheFramebuffer : Obligations.DrawingTwiceRestoresTheFramebuffer := by
  intro x y n s hx hy hin
  obtain ⟨-, hdraw⟩ := drawSpriteOrFaults x y n s
  obtain ⟨t, ht, hcov, huncov, -, hclear, -, -, hframe⟩ := hdraw hin
  have hsame := spriteCovers_iff_of_frame hx hy hframe n
  have hidx : t.idx = s.idx := hframe .index (by simp) (by simp)
  obtain ⟨-, hdraw'⟩ := drawSpriteOrFaults x y n t
  obtain ⟨u, hu, hcov', huncov', hset', hclear', -⟩ := hdraw' (hidx ▸ hin)
  refine ⟨t, u, ht, hu, fun col row => ?_, fun hpix => ⟨hclear hpix, ?_, fun hnone => ?_⟩⟩
  · by_cases hc : SpriteCovers s x y n col row
    · rw [hcov' col row ((hsame col row).mpr hc), hcov col row hc, Bool.not_not]
    · rw [huncov' col row (mt (hsame col row).mp hc), huncov col row hc]
  · rintro ⟨col, row, hc⟩
    have hon : t.pixel col row = true := by rw [hcov col row hc, hpix col row hc, Bool.not_false]
    exact hset' ⟨col, row, (hsame col row).mpr hc, hon⟩
  · exact hclear' fun col row hc => absurd ((hsame col row).mp hc) (hnone col row)

/-! ### The step's input, fetch, the fault codes, the output port -/

/-- Settles O8: the queue has an oldest input, or the free values stand in for it. -/
theorem stepTakesTheHostsInput : Obligations.StepTakesTheHostsInput :=
  ⟨fun _ _ _ h => by simp only [step, State.nextInput, State.takeInput, h, List.tail_cons],
    fun _ h => by simp only [step, State.nextInput, State.takeInput, h, List.tail_nil]⟩

/-- Settles O11: each side of the two range checks; a step that gets no word is the fault of its fetch. -/
theorem fetchReadsTwoBytesOrFaults : Obligations.FetchReadsTwoBytesOrFaults := by
  refine fun s => ⟨fun hpc => ?_, fun hpc => ?_, fun hpc => State.fetch_of_lt (Nat.succ_lt_succ hpc),
    fun hw _ hf _ => stepWith_of_fetch_error hw hf⟩
  · exact (s.fetch_eq_error_iff _).mpr (.inl ⟨hpc, rfl⟩)
  · exact (s.fetch_eq_error_iff _).mpr (.inr ⟨hpc, rfl⟩)

/-- Settles O15: an info word holds any number of 16 bits, and any byte. -/
theorem faultCodesAndInfo : Obligations.FaultCodesAndInfo :=
  ⟨⟨rfl, rfl⟩, ⟨rfl, rfl⟩, fun _ hv => ⟨rfl, Nat.mod_eq_of_lt hv⟩, fun _ => ⟨rfl, BitVec.toNat_setWidth_of_le (by decide)⟩⟩

/-- Settles O49: column and row are the remainder and the quotient of the pixel's number by 64. -/
theorem framebufferOutputIsRowMajor : Obligations.FramebufferOutputIsRowMajor := by
  intro s col row j hj
  have hcol : (⟨j.val % 64, by omega⟩ : Fin 64) = col := Fin.ext (by simp only; omega)
  have hrow : (⟨j.val / 64, by omega⟩ : Fin 32) = row := Fin.ext (by simp only; omega)
  rw [State.fbOut, hcol, hrow, State.pixel]

end Sys2Proof.Machine
end
